-- ==== Sys2Proof/Word.lean ====
section
/-! DEFINITION. The words the engine moves: score bytes (8 bits), period-table entries and counters
(32 bits), and the 16-bit tick count of AdvanceTime (R11, R14, R54). -/

namespace Sys2Proof

/-- A score byte (R14: "A byte is 8 bits"). -/
abbrev Byte := BitVec 8

/-- An unsigned 32-bit value (R11): half-periods, toggle counters, the event countdown, the tempo factor. -/
abbrev U32 := BitVec 32

end Sys2Proof
end

