-- ==== Sys2Proof/Config.lean ====
section
/-! DEFINITION. The configuration of an engine (R6 to R13): the parameters the spec leaves OPEN. Nothing in it
changes while the engine runs. Its well-formedness is `Config.wf` (WellFormed.lean). -/

namespace Sys2Proof

/-- The configuration record of R6 to R13. `NUM_PITCHES` is the length of the table (R7, R34; log 14). -/
structure Config where
  /-- `MAX_CHANS`, the number of channels (R6). -/
  maxChans : Nat
  /-- `PERIOD_TABLE`, the half-period of each pitch index (R8, R110). -/
  periodTable : List U32
  /-- The pin map: the output line of each channel, an opaque name (R160, R22 `pinRef`; log 15). -/
  pinMap : List Nat
  /-- `TICK_HZ`, passed to `startTimer` (R9, R149). The spec calls it a frequency in hertz; that it is a whole number of hertz is
  a DESIGN CHOICE (log 25). -/
  tickHz : Nat
  /-- `ADDR_BITS`, which bounds the length of a score (R10). -/
  addrBits : Nat
  /-- `MAX_RECORDS_PER_TICK`, if the model is to refuse scores that overrun it (R193, D38; log 8). -/
  maxRecordsPerTick : Option Nat
  deriving DecidableEq, Repr

/-- `NUM_PITCHES` (R7): the number of entries of the period table. -/
abbrev Config.numPitches (c : Config) : Nat := c.periodTable.length

/-- The configuration `State.reset` is built for: the spec's test configuration TC16 (95_test_vectors.md section 0)
with the parameters TC16 does not give (DESIGN CHOICE, log 1). -/
def Config.tc16 : Config where
  maxChans := 16
  periodTable := [5, 4, 3, 2]
  pinMap := List.range 16
  tickHz := 20000
  addrBits := 16
  maxRecordsPerTick := none

end Sys2Proof
end

