-- ==== Sys2Proof/Syntax.lean ====
section
/-! DEFINITION. The score commands: one constructor per row of spec/opcode_table.json (30_encoding.md). -/

namespace Sys2Proof

/-- A record of the score. The three reserved rows of the table are instructions too: their meaning is to raise
DecodeError (R77), so they are decoded and carry their opcode byte (log 22). -/
inductive Instr where
  /-- Format P, `0x0N P`: set channel `n` to pitch index `p` (R72, R91). -/
  | setChannelPitch (n : BitVec 4) (p : Byte)
  /-- Format S, `0x8N`: silence channel `n` (R73, R92). -/
  | silenceChannel (n : BitVec 4)
  /-- Format T, `0xF0 lo hi`: let `t` ticks (before tempo scaling) pass (R74, R93). -/
  | advanceTime (t : BitVec 16)
  /-- Format E, `0xFF`: the end of the score (R75, R94). -/
  | endOfScore
  /-- A reserved opcode byte in `0x10 .. 0x7F` (R77). -/
  | reservedLow (b : Byte)
  /-- A reserved opcode byte in `0x90 .. 0xEF` (R77). -/
  | reservedMid (b : Byte)
  /-- A reserved opcode byte in `0xF1 .. 0xFE` (R77). -/
  | reservedHigh (b : Byte)
  deriving DecidableEq, Repr

end Sys2Proof
end

