-- ==== Sys2Proof/WellFormed.lean ====
section
/-! DEFINITION. What makes an instruction encodable, a record legal under a configuration, and a configuration
acceptable. -/

namespace Sys2Proof

/-- The instruction stands for a record of the score: a reserved constructor holds a byte of its own row's range
(R77); every field value of the other formats is encodable (R72 to R75). -/
def Instr.encodable : Instr → Bool
  | .setChannelPitch _ _ => true
  | .silenceChannel _ => true
  | .advanceTime _ => true
  | .endOfScore => true
  | .reservedLow b => decide (0x10#8 ≤ b ∧ b ≤ 0x7F#8)
  | .reservedMid b => decide (0x90#8 ≤ b ∧ b ≤ 0xEF#8)
  | .reservedHigh b => decide (0xF1#8 ≤ b ∧ b ≤ 0xFE#8)

/-- The record decodes without DecodeError under the configuration: its channel exists, its pitch is in the table,
its opcode is assigned (R76, R77, R78). -/
def Instr.legal (c : Config) : Instr → Bool
  | .setChannelPitch n p => decide (n.toNat < c.maxChans) && decide (p.toNat < c.numPitches)
  | .silenceChannel n => decide (n.toNat < c.maxChans)
  | .advanceTime _ => true
  | .endOfScore => true
  | .reservedLow _ => false
  | .reservedMid _ => false
  | .reservedHigh _ => false

/-- R6: `1 <= MAX_CHANS <= 16`. -/
abbrev Config.chansOk (c : Config) : Prop := 1 ≤ c.maxChans ∧ c.maxChans ≤ 16

/-- R7: `1 <= NUM_PITCHES <= 256`. -/
abbrev Config.pitchesOk (c : Config) : Prop := 1 ≤ c.numPitches ∧ c.numPitches ≤ 256

/-- R112 condition 1: every entry is at least 1 (its width bounds it above). -/
abbrev Config.entriesOk (c : Config) : Prop := c.periodTable.all (fun hp => decide (1#32 ≤ hp)) = true

/-- R112 condition 2: the entries strictly decrease as the index increases. -/
abbrev Config.decreasing (c : Config) : Prop := c.periodTable.Pairwise (fun a b => b < a)

/-- R160: one line for each channel, and two channels drive two distinct lines. -/
abbrev Config.pinsOk (c : Config) : Prop := c.pinMap.length = c.maxChans ∧ c.pinMap.Nodup

/-- The configurations for which an engine exists (R13, R112, R160; 93_implementation_defined.md I16, I22). -/
abbrev Config.wf (c : Config) : Prop :=
  c.chansOk ∧ c.pitchesOk ∧ c.entriesOk ∧ c.decreasing ∧ c.pinsOk

end Sys2Proof
end

