-- ==== Sys2Proof/Decode.lean ====
section
/-! DEFINITION. From score bytes to records and back (30_encoding.md, R70 to R80; DecodeOne, R90). Decoding is total
and needs no configuration; which channels and pitches exist is `Instr.legal`. -/

namespace Sys2Proof

/-- Why the bytes at the cursor hold no record: the two ways R79 names. -/
inductive DecodeReject where
  /-- There is no byte at the cursor: the end marker is missing (R79, R172 case 1). -/
  | missingEndMarker
  /-- The opcode byte is there and an operand byte is not (R79, R172 case 2). -/
  | truncatedRecord
  deriving DecidableEq, Repr

/-- `b[7:4]` (R15). -/
def highNibble (b : Byte) : BitVec 4 := b.extractLsb' 4 4

/-- `b[3:0]` (R15). -/
def lowNibble (b : Byte) : BitVec 4 := b.extractLsb' 0 4

/-- The tick count of format T from its bytes in stream order, low byte first (R52, R74). -/
def countOfBytes (lo hi : Byte) : BitVec 16 := hi ++ lo

/-- `T[7:0]` (R74). -/
def countLow (t : BitVec 16) : Byte := t.extractLsb' 0 8

/-- `T[15:8]` (R74). -/
def countHigh (t : BitVec 16) : Byte := t.extractLsb' 8 8

/-- The length of the record that begins with this opcode byte; a reserved byte has none (R71). -/
def recordLength (b0 : Byte) : Option Nat :=
  if highNibble b0 = 0x0#4 then some 2
  else if highNibble b0 = 0x8#4 then some 1
  else if b0 = 0xF0#8 then some 3
  else if b0 = 0xFF#8 then some 1
  else none

/-- The row of the opcode table a reserved byte belongs to (R77). -/
def reservedOf (b0 : Byte) : Instr :=
  if b0 < 0x80#8 then .reservedLow b0
  else if b0 < 0xF0#8 then .reservedMid b0
  else .reservedHigh b0

/-- The record at the head of a byte stream, with the bytes that follow it (R70 to R77, R79). -/
def decode : List Byte → Except DecodeReject (Instr × List Byte)
  | [] => .error .missingEndMarker
  | b0 :: rest =>
    if highNibble b0 = 0x0#4 then
      match rest with
      | [] => .error .truncatedRecord
      | b1 :: rest' => .ok (.setChannelPitch (lowNibble b0) b1, rest')
    else if highNibble b0 = 0x8#4 then .ok (.silenceChannel (lowNibble b0), rest)
    else if b0 = 0xF0#8 then
      match rest with
      | b1 :: b2 :: rest' => .ok (.advanceTime (countOfBytes b1 b2), rest')
      | _ => .error .truncatedRecord
    else if b0 = 0xFF#8 then .ok (.endOfScore, rest)
    else .ok (reservedOf b0, rest)

/-- The bytes of a record in stream order (R72 to R75, R81). -/
def encode : Instr → List Byte
  | .setChannelPitch n p => [0x0#4 ++ n, p]
  | .silenceChannel n => [0x8#4 ++ n]
  | .advanceTime t => [0xF0#8, countLow t, countHigh t]
  | .endOfScore => [0xFF#8]
  | .reservedLow b => [b]
  | .reservedMid b => [b]
  | .reservedHigh b => [b]

/-- The five causes of a DecodeError (R172). -/
inductive DecodeCause where
  /-- The record starts at or past the end of the score (R172 case 1). -/
  | missingEndMarker
  /-- An operand byte lies at or past the end of the score (R172 case 2). -/
  | truncatedRecord
  /-- `N >= MAX_CHANS` (R172 case 3). -/
  | channelOutOfRange
  /-- `P >= NUM_PITCHES` (R172 case 4). -/
  | pitchOutOfRange
  /-- A reserved opcode byte (R172 case 5). -/
  | reservedOpcode
  deriving DecidableEq, Repr

/-- `DecodeOne` as R90 writes it, over the score bytes from the cursor on: a command and its length, or the cause of
the DecodeError. The machine itself decodes with `decode` and lets each meaning make its own checks (log 5). -/
def decodeOne (c : Config) : List Byte → Except DecodeCause (Instr × Nat)
  | [] => .error .missingEndMarker
  | b0 :: rest =>
    if highNibble b0 = 0x0#4 then
      match rest with
      | [] => .error .truncatedRecord
      | b1 :: _ =>
        if c.maxChans ≤ (lowNibble b0).toNat then .error .channelOutOfRange
        else if c.numPitches ≤ b1.toNat then .error .pitchOutOfRange
        else .ok (.setChannelPitch (lowNibble b0) b1, 2)
    else if highNibble b0 = 0x8#4 then
      if c.maxChans ≤ (lowNibble b0).toNat then .error .channelOutOfRange
      else .ok (.silenceChannel (lowNibble b0), 1)
    else if b0 = 0xF0#8 then
      match rest with
      | b1 :: b2 :: _ => .ok (.advanceTime (countOfBytes b1 b2), 3)
      | _ => .error .truncatedRecord
    else if b0 = 0xFF#8 then .ok (.endOfScore, 1)
    else .error .reservedOpcode

/-- `k` bytes of `w`, bits 7..0 first: the stream order of a table word. -/
def bytesOfWord : Nat → Nat → List Byte
  | 0, _ => []
  | k + 1, w => BitVec.ofNat 8 w :: bytesOfWord k (w / 256)

/-- The longest record has 3 bytes (R71). -/
def maxRecordBytes : Nat := 3

/-- The bytes of a table word of `nbits` bits, the bits above them zero, as long as the longest record. -/
def tableBytes (nbits w : Nat) : List Byte := bytesOfWord maxRecordBytes (w % 2 ^ nbits)

/-- Exactly the bytes of the record a table word holds: its length follows from its first byte (R71), a reserved
opcode byte stands alone. -/
def tableRecord (nbits w : Nat) : List Byte :=
  let bs := tableBytes nbits w
  bs.take ((recordLength (bs.headD 0)).getD 1)

/-- The instruction the decoder reads from a table word, bit 0 the least significant bit of the first byte. -/
def decodeTableWord (nbits w : Nat) : Option Instr :=
  match decode (tableBytes nbits w) with
  | .ok (i, _) => some i
  | .error _ => none

end Sys2Proof
end

