-- ==== Sys2Proof/Machine/State.lean ====
section
/-! DEFINITION. The state of the engine (10_state.md), what the outside world hands it and gets back, the stops, and
reset. -/

namespace Sys2Proof.Machine

/-- A memory: (address, byte) pairs, addresses strictly rising, no entry equal to what an unlisted address reads as
(`Memory.wf` in Ops.lean). The engine's one memory is the score buffer (R50), addressed by byte index (R26). -/
abbrev Memory := List Host.Cell

/-- Channel `c`: its record `ch[c]` (R22) and, beside it, the level of its output line `pin[c]` (R23; log 13). -/
structure Channel where
  /-- `ch[c].active` -/
  active : Bool
  /-- `ch[c].halfPeriodTicks` -/
  halfPeriodTicks : U32
  /-- `ch[c].ticksRemaining` -/
  ticksRemaining : U32
  /-- `pin[c]`: true is high, false is low (the silent level, R163). -/
  pin : Bool
  deriving DecidableEq, Repr

/-- `EngineState` (R20): exactly the state the spec gives the engine. -/
structure EngineState where
  /-- The channels `0 .. MAX_CHANS-1` in order (R22, R23). -/
  chans : List Channel
  /-- The score buffer, or none before the first `playScore` (R27; held by value, log 7). -/
  score : Option Memory
  /-- The number of bytes of the score (R27). -/
  scoreLen : Nat
  /-- The program counter: the index of the next score byte (R26). -/
  cursor : Nat
  /-- The countdown of ticks until the next event (R28). -/
  eventDelay : U32
  /-- Idle 0, Playing 1, Stopped 2; 3 is never held (R29). -/
  playbackState : BitVec 2
  /-- The periodic timer is armed (R30). -/
  timerArmed : Bool
  /-- The last percent accepted by `setSpeed` (R31). -/
  speedPercent : BitVec 16
  /-- The tempo factor, 16 fraction bits (R31). -/
  speedScale : U32
  /-- 0 (None) or 2 (DecodeError) (R32). -/
  errorStatus : BitVec 2
  deriving DecidableEq, Repr

/-- The encodings of `playbackState` (R29). -/
abbrev idle : BitVec 2 := 0#2
/-- R29: `Playing = 1`. -/
abbrev playing : BitVec 2 := 1#2
/-- R29: `Stopped = 2`. -/
abbrev stopped : BitVec 2 := 2#2

/-- The result and error codes by name (R170); their numbers are `ResultCode.code`. -/
inductive ResultCode where
  | ok
  | configError
  | decodeError
  | concurrentStartError
  deriving DecidableEq, Repr

/-- The operations of the host interface (R140). -/
inductive HostOp where
  /-- `playScore(buf)`: none is the null score (R141). -/
  | playScore (buf : Option (List Byte))
  /-- `stopScore()` (R142). -/
  | stopScore
  /-- `setSpeed(percent)` (R143). -/
  | setSpeed (percent : Nat)
  /-- `isPlaying()` (R144). -/
  | isPlaying
  /-- `status()` (R145). -/
  | status
  /-- `teardown()` (R146). -/
  | teardown
  deriving DecidableEq, Repr

/-- What a host operation returns (R140, R150). -/
inductive HostResult where
  /-- A result code. -/
  | code (c : ResultCode)
  /-- The Boolean of `isPlaying` (R144). -/
  | playingFlag (b : Bool)
  /-- The value of `status` (R145). -/
  | statusValue (v : BitVec 2)
  deriving DecidableEq, Repr

/-- One thing the outside world does: the timer fires, or the host issues an operation (R3, R19). -/
inductive Input where
  /-- The periodic timer fires. -/
  | tick
  /-- The host issues an operation. -/
  | host (op : HostOp)
  deriving DecidableEq, Repr

/-- A request the engine issues to the platform timer (R149). -/
inductive TimerRequest where
  /-- `startTimer(TICK_HZ)`, a whole number of hertz (log 25) -/
  | startTimer (hz : Nat)
  /-- `stopTimer()` -/
  | stopTimer
  deriving DecidableEq, Repr

/-- The machine: the engine's state, its configuration (a parameter, never written; log 1), and the two channels to
the outside world. -/
structure State where
  /-- The configuration (R6 to R13): not state by R20; no step writes it (R113). -/
  cfg : Config
  /-- The engine's state (R20). -/
  eng : EngineState
  /-- What the outside world does, in order; with nothing listed the timer fires alone (log 2). -/
  inputs : List Input
  /-- What the last host operation returned (R140, R150; log 4). -/
  result : Option HostResult
  deriving DecidableEq, Repr

/-- The ways a step can stop for good. -/
inductive Fault where
  /-- `InvariantViolation` (R182): raised by channel service of a Tick on an active channel whose counter is 0, and by
  every step from `playbackState == 3`. Both are unreachable; stopping is what R182 says. Safe (log 12). -/
  | invariantViolation
  deriving DecidableEq, Repr

/-- What the model does not run. -/
inductive Refusal where
  /-- An instruction without a meaning, named by its mnemonic: raised by `exec` alone, by no arm now. Safe. -/
  | notModelled (mnemonic : String)
  /-- Raised by the decode loop of a Tick when a configuration sets MAX_RECORDS_PER_TICK and the Tick would decode more
  records (R193, D38; log 8). Safe: without the parameter it is never raised. -/
  | tickOverrun
  /-- Raised by `playScore` on a buffer of more than 2^ADDR_BITS bytes, which is no operand of it (R10, R141; log 11).
  Safe. -/
  | scoreTooLong
  deriving DecidableEq, Repr

/-- The outcome of a step of this machine. -/
abbrev Result := Host.Outcome State Fault Refusal

/-- A channel at reset (R35). -/
def Channel.reset : Channel where
  active := false
  halfPeriodTicks := 0
  ticksRemaining := 0
  pin := false

/-- The engine's state at reset, every value from R35. -/
def EngineState.reset (c : Config) : EngineState where
  chans := List.replicate c.maxChans Channel.reset
  score := none
  scoreLen := 0
  cursor := 0
  eventDelay := 0
  playbackState := idle
  timerArmed := false
  speedPercent := 100
  speedScale := 65536
  errorStatus := 0

/-- The machine right after construction with a configuration (R190), nothing coming from outside. -/
def State.resetWith (c : Config) : State where
  cfg := c
  eng := EngineState.reset c
  inputs := []
  result := none

/-- The machine right after reset, built for the configuration TC16 (log 1). -/
def State.reset : State := State.resetWith Config.tc16

end Sys2Proof.Machine
end

