-- ==== Sys2Proof/Machine/Ops.lean ====
section
/-! DEFINITION. The operations over the score buffer, the channels, the pins and the control registers that the rules
share, and taking a DecodeError (fail-stop). -/

namespace Sys2Proof.Machine

/-! ### The score buffer (20_memory.md) -/

/-- What an address that is not listed holds. Every byte `playScore` stores is read back as stored, so this is only how a
zero byte is kept (log 7). -/
def Memory.unlisted : Byte := 0#8

/-- The canonical form: addresses strictly rising, and no entry equal to what an unlisted address reads as. -/
abbrev Memory.wf (m : Memory) : Prop :=
  m.Pairwise (fun x y => x.1 < y.1) ∧ ∀ x ∈ m, x.2 ≠ Memory.unlisted

/-- The byte at an address. -/
def Memory.read : Memory → Nat → Byte
  | [], _ => Memory.unlisted
  | (k, v) :: m, a => if k = a then v else Memory.read m a

/-- Put a byte in front of a memory whose addresses are all higher. -/
def Memory.putFront (a : Nat) (b : Byte) (m : Memory) : Memory :=
  if b = Memory.unlisted then m else (a, b) :: m

/-- The memory with one byte replaced. No engine rule writes memory (R16, R50): this is how a caller fills a buffer. -/
def Memory.write : Memory → Nat → Byte → Memory
  | [], a, b => Memory.putFront a b []
  | (k, v) :: m, a, b =>
    if a < k then Memory.putFront a b ((k, v) :: m)
    else if a = k then Memory.putFront a b m
    else (k, v) :: Memory.write m a b

/-- The memory with a run of bytes replaced, from an address up. -/
def Memory.writeBytes : Memory → Nat → List Byte → Memory
  | m, _, [] => m
  | m, a, b :: bs => Memory.writeBytes (Memory.write m a b) (a + 1) bs

/-- A buffer whose bytes stand at consecutive addresses. -/
def Memory.ofBytesAt : Nat → List Byte → Memory
  | _, [] => []
  | a, b :: bs => Memory.putFront a b (Memory.ofBytesAt (a + 1) bs)

/-- The buffer a caller passes to `playScore`, addressed from 0 (R26, R27). -/
def Memory.ofBytes (bs : List Byte) : Memory := Memory.ofBytesAt 0 bs

/-- `MemRead(i, 1)` (R51): the byte at index `i` of the score, or none at or past its end. -/
def EngineState.memRead (e : EngineState) (i : Nat) : Option Byte :=
  if i < e.scoreLen then e.score.map (fun m => Memory.read m i) else none

/-- The score bytes from index `i` on, at most `n`, fewer at the end of the score. -/
def EngineState.readBytes (e : EngineState) : Nat → Nat → List Byte
  | _, 0 => []
  | i, n + 1 =>
    match e.memRead i with
    | none => []
    | some b => b :: EngineState.readBytes e (i + 1) n

/-- The bytes the decoder may look at: those at the cursor, as many as the longest record has (R71, R90). -/
def EngineState.recordBytes (e : EngineState) : List Byte := e.readBytes e.cursor maxRecordBytes

/-! ### Channels and pins (10_state.md section 3, 44_pin_driver.md) -/

/-- `Toggle(c)` on the channel's own line (R161). -/
def Channel.toggle (k : Channel) : Channel := { k with pin := !k.pin }

/-- `SetLow(c)` on the channel's own line (R162). -/
def Channel.setLow (k : Channel) : Channel := { k with pin := false }

/-- Silence a channel: inactive and low, its counters kept (R92, R164). -/
def Channel.silence (k : Channel) : Channel := { k with active := false }.setLow

/-- Start a tone: active, the counter full, the pin as it was (R91; the spec's decision D19, log 18). -/
def Channel.startTone (hp : U32) (k : Channel) : Channel :=
  { k with active := true, halfPeriodTicks := hp, ticksRemaining := hp }

/-- Clear a channel as `playScore` does (R141). -/
def Channel.clear (k : Channel) : Channel :=
  { k with active := false, halfPeriodTicks := 0, ticksRemaining := 0 }.setLow

/-- Apply an operation to channel `c` alone (R22, R60; a channel that does not exist is not reached, log 13). -/
def EngineState.onChannel (e : EngineState) (c : Nat) (f : Channel → Channel) : EngineState :=
  { e with chans := e.chans.modify c f }

/-- `SilenceAll()` (R164). -/
def EngineState.silenceAll (e : EngineState) : EngineState :=
  { e with chans := e.chans.map Channel.silence }

/-! ### Control registers -/

/-- Move the cursor past a record (R96). -/
def EngineState.advanceCursor (e : EngineState) (len : Nat) : EngineState :=
  { e with cursor := e.cursor + len }

/-- Load the event countdown (R28, R93). -/
def EngineState.loadDelay (e : EngineState) (d : U32) : EngineState := { e with eventDelay := d }

/-- Silence every channel, disarm the timer and go to Stopped: what EndOfScore and fail-stop share (R94, R174). -/
def EngineState.halt (e : EngineState) : EngineState :=
  { e.silenceAll with timerArmed := false, playbackState := stopped }

/-- Reset the score position (R142, R146). -/
def EngineState.rewind (e : EngineState) : EngineState := { e with cursor := 0, eventDelay := 0 }

/-! ### Taking a DecodeError -/

/-- The numbers of the result codes (R170; the spec's decision D33, log 20). -/
def ResultCode.code : ResultCode → BitVec 2
  | .ok => 0#2
  | .configError => 1#2
  | .decodeError => 2#2
  | .concurrentStartError => 3#2

/-- `FailStop()` (R174): the engine's one exception. Nothing is saved, control goes nowhere, the cursor stays at the
failing record (R96). There is no return from it; a later `playScore` starts anew (R175). -/
def EngineState.failStop (e : EngineState) : EngineState :=
  { e.halt with errorStatus := ResultCode.decodeError.code }

/-- The machine with another engine state. -/
def State.withEng (s : State) (e : EngineState) : State := { s with eng := e }

/-- `raise DecodeError` (R16, R174). -/
def State.raiseDecodeError (s : State) : State := s.withEng s.eng.failStop

/-- A record of `len` bytes: if it is legal, the cursor moves past it and then it takes effect (R95, R96); if it is not,
it raises DecodeError with the cursor at its opcode byte (R78, R90). -/
def runRecord (len : Nat) (legal : Bool) (effect : EngineState → EngineState) (s : State) : Result :=
  if legal then .next (s.withEng (effect (s.eng.advanceCursor len))) else .next s.raiseDecodeError

/-! ### The outside world -/

/-- Give the host the result of its operation (R140). -/
def State.answer (s : State) (r : HostResult) : State := { s with result := some r }

/-- The request the engine issues to the platform timer when a step takes it from `s` to `t` (R149; log 16). -/
def timerRequest (s t : State) : Option TimerRequest :=
  match s.eng.timerArmed, t.eng.timerArmed with
  | false, true => some (.startTimer s.cfg.tickHz)
  | true, false => some .stopTimer
  | true, true => none
  | false, false => none

/-- The record that follows a placed record, `AdvanceTime(65535)`: it lets the Tick end after the placed one (log 6). -/
def placedTrailer : List Byte := encode (.advanceTime 0xFFFF#16) ++ encode .endOfScore

/-- Put bytes at the cursor of the score, lengthening it where they reach past its end (log 6). -/
def EngineState.placeAtCursor (e : EngineState) (bs : List Byte) : EngineState :=
  { e with
    score := some (Memory.writeBytes (e.score.getD []) e.cursor bs)
    scoreLen := max e.scoreLen (e.cursor + bs.length) }

/-- Make the next step a Tick that decodes at the cursor: Playing, the timer armed, no countdown left, the timer firing
next (log 6). -/
def State.dueTick (s : State) (e : EngineState) : State :=
  { s with
    eng := { e with eventDelay := 0, playbackState := playing, timerArmed := true }
    inputs := .tick :: s.inputs }

/-- The machine with a record placed where the next step fetches (log 6). -/
def State.placeRecord (s : State) (record : List Byte) : State :=
  s.dueTick (s.eng.placeAtCursor (record ++ placedTrailer))

end Sys2Proof.Machine
end

