-- ==== Sys2Proof/Machine/Operands.lean ====
section
/-! DEFINITION. The operands of the commands and of `setSpeed`: channels, pitches, tick counts, tempo. -/

namespace Sys2Proof.Machine

/-- The channel field names a channel of the engine (R76). -/
def channelExists (c : Config) (n : BitVec 4) : Bool := decide (n.toNat < c.maxChans)

/-- The pitch field names an entry of the table (R78). -/
def pitchExists (c : Config) (p : Byte) : Bool := decide (p.toNat < c.numPitches)

/-- `halfPeriodFor(p) = PERIOD_TABLE[p]` (R110). It is read only where `pitchExists`, so no read is out of range. -/
def halfPeriodFor (c : Config) (p : Byte) : U32 := c.periodTable.getD p.toNat 0

/-- The tempo factor of a percent: `floor(6553600 / percent)` (R31, R143). -/
def speedScaleFor (percent : Nat) : U32 := BitVec.ofNat 32 (6553600 / percent)

/-- The percents `setSpeed` accepts (R12, R143). -/
def speedAccepted (percent : Nat) : Bool := decide (1 ≤ percent ∧ percent ≤ 1000)

/-- `ScaleDelay(T) = (T * speedScale + 32768) >> 16` (R147), the product and sum exact. It fits in 32 bits whatever the
factor. -/
def scaleDelay (scale : U32) (t : BitVec 16) : U32 :=
  BitVec.ofNat 32 ((t.toNat * scale.toNat + 32768) >>> 16)

/-- `round(a / b)` to the nearest integer, halves upward (R111, D23). -/
def roundHalfUp (a b : Nat) : Nat := (2 * a + b) / (2 * b)

/-- The formula a configuration's table is expected to be made by (R111), for a pitch of `num / den` hertz and a
whole `tickHz` (log 25). No step reads it. -/
def periodEntry (tickHz num den : Nat) : Nat := roundHalfUp (tickHz * den) (2 * num)

end Sys2Proof.Machine
end

