-- ==== Sys2Proof/Machine/Commands.lean ====
section
/-! DEFINITION. The meanings of the score commands (40_score_commands.md) and of the reserved opcodes (R77). A meaning is
the whole pass of the decode loop over its record: the checks of R90, the cursor (R96), the effect (log 5). -/

namespace Sys2Proof.Machine

/-- SetChannelPitch (R91). -/
def execSetChannelPitch (n : BitVec 4) (p : Byte) (s : State) : Result :=
  runRecord 2 (channelExists s.cfg n && pitchExists s.cfg p)
    (fun e => e.onChannel n.toNat (Channel.startTone (halfPeriodFor s.cfg p))) s

/-- SilenceChannel (R92). -/
def execSilenceChannel (n : BitVec 4) (s : State) : Result :=
  runRecord 1 (channelExists s.cfg n) (fun e => e.onChannel n.toNat Channel.silence) s

/-- AdvanceTime (R93): the factor is the one in `speedScale` when the record is decoded. -/
def execAdvanceTime (t : BitVec 16) (s : State) : Result :=
  runRecord 3 true (fun e => e.loadDelay (scaleDelay e.speedScale t)) s

/-- EndOfScore (R94). -/
def execEndOfScore (s : State) : Result := runRecord 1 true EngineState.halt s

/-- A reserved opcode in `0x10 .. 0x7F` raises DecodeError, whichever byte it is (R77). -/
def execReservedLow (_b : Byte) (s : State) : Result := .next s.raiseDecodeError

/-- A reserved opcode in `0x90 .. 0xEF` raises DecodeError, whichever byte it is (R77). -/
def execReservedMid (_b : Byte) (s : State) : Result := .next s.raiseDecodeError

/-- A reserved opcode in `0xF1 .. 0xFE` raises DecodeError, whichever byte it is (R77). -/
def execReservedHigh (_b : Byte) (s : State) : Result := .next s.raiseDecodeError

end Sys2Proof.Machine
end

