-- ==== Sys2Proof/Machine/Dispatch.lean ====
section
/-! DEFINITION. Which meaning each instruction has: one arm per constructor of Instr. -/

namespace Sys2Proof.Machine

def exec (i : Instr) (s : State) : Host.Outcome State Fault Refusal :=
  match i with
  | .setChannelPitch n p => Sys2Proof.Machine.execSetChannelPitch n p s
  | .silenceChannel n => Sys2Proof.Machine.execSilenceChannel n s
  | .advanceTime t => Sys2Proof.Machine.execAdvanceTime t s
  | .endOfScore => Sys2Proof.Machine.execEndOfScore s
  | .reservedLow b => Sys2Proof.Machine.execReservedLow b s
  | .reservedMid b => Sys2Proof.Machine.execReservedMid b s
  | .reservedHigh b => Sys2Proof.Machine.execReservedHigh b s

end Sys2Proof.Machine
end

