-- ==== Sys2Proof/Machine/Flags.lean ====
section
/-! DEFINITION. The flags of the engine (R33). It has no condition codes; `active`, `timerArmed` and `errorStatus` are
fields of State, written by the operations of Ops.lean; these are the readings the rules make of them. -/

namespace Sys2Proof.Machine

/-- `isPlaying == (playbackState == Playing)`, a flag without storage (R33). -/
def EngineState.isPlaying (e : EngineState) : Bool := e.playbackState == playing

/-- `playbackState` holds none of its three values (R29, R182). -/
def EngineState.stateIllegal (e : EngineState) : Bool := e.playbackState == 3#2

/-- An active channel whose counter is 0 (R182): it cannot be serviced. -/
def Channel.overdue (k : Channel) : Bool := k.active && k.ticksRemaining == 0

end Sys2Proof.Machine
end

