-- ==== Sys2Proof/Machine/Tick.lean ====
section
/-! DEFINITION. The Tick (42_tick_scheduler.md): channel service, event advance, and the decode loop
(40_score_commands.md section 3). -/

namespace Sys2Proof.Machine

/-! ### Channel service -/

/-- Service of one active channel: count down; at zero toggle the line and reload (R121). -/
def Channel.countDown (k : Channel) : Channel :=
  if k.ticksRemaining - 1 = 0 then { k with ticksRemaining := k.halfPeriodTicks }.toggle
  else { k with ticksRemaining := k.ticksRemaining - 1 }

/-- Service of one channel: an inactive one is left alone (R121, R122). -/
def Channel.service (k : Channel) : Channel := if k.active then k.countDown else k

/-- `ServiceChannels()` (R121): all channels at once, each from its own record (R123); none if an active channel's
counter is 0 (R182). -/
def EngineState.serviceChannels (e : EngineState) : Option EngineState :=
  if e.chans.any Channel.overdue then none
  else some { e with chans := e.chans.map Channel.service }

/-! ### The decode loop -/

/-- The record at the cursor (R90; log 24). -/
def fetchRecord (s : State) : Except DecodeReject Instr :=
  match decode s.eng.recordBytes with
  | .ok (i, _) => .ok i
  | .error r => .error r

/-- One pass of the decode loop: the record at the cursor is executed; where there is none, DecodeError (R90, R95). -/
def recordStep (s : State) : Result :=
  match fetchRecord s with
  | .ok i => exec i s
  | .error _ => .next s.raiseDecodeError

/-- The record ends the decode loop, `t` being the state after it (R95): EndOfScore, an AdvanceTime that left a delay,
or a DecodeError. -/
def recordEndsLoop (i : Instr) (t : State) : Bool :=
  match i with
  | .setChannelPitch n p => !(channelExists t.cfg n && pitchExists t.cfg p)
  | .silenceChannel n => !(channelExists t.cfg n)
  | .advanceTime _ => t.eng.eventDelay != 0
  | .endOfScore => true
  | .reservedLow _ => true
  | .reservedMid _ => true
  | .reservedHigh _ => true

/-- The pass from `s` to `t` ends the decode loop (R95). -/
def passEndsLoop (s t : State) : Bool :=
  match fetchRecord s with
  | .ok i => recordEndsLoop i t
  | .error _ => true

/-- `DecodeLoop()` (R95), at most the given number of passes; where they do not do, the Tick overruns (R193; log 8). -/
def decodeLoop : Nat → State → Result
  | 0, _ => .refused .tickOverrun
  | n + 1, s =>
    match recordStep s with
    | .next t => if passEndsLoop s t then .next t else decodeLoop n t
    | .fault f => .fault f
    | .refused r => .refused r

/-- How many passes a decode loop gets: MAX_RECORDS_PER_TICK where it is set (R193), else one for each byte left and one
to find the end, which is enough (R95). -/
def passesAllowed (s : State) : Nat :=
  match s.cfg.maxRecordsPerTick with
  | some m => m
  | none => s.eng.scoreLen - s.eng.cursor + 1

/-! ### The step of the tick agent -/

/-- The countdown after this Tick: down by one while nonzero (R124). -/
def countdown (d : U32) : U32 := if d = 0 then d else d - 1

/-- `AdvanceEvents()` (R124). -/
def advanceEvents (s : State) : Result :=
  let t := s.withEng (s.eng.loadDelay (countdown s.eng.eventDelay))
  if t.eng.eventDelay = 0 then decodeLoop (passesAllowed t) t else .next t

/-- `Tick()` (R125): all active channels are serviced before the event-advance check. -/
def tick (s : State) : Result :=
  match s.eng.serviceChannels with
  | some e => advanceEvents (s.withEng e)
  | none => .fault .invariantViolation

end Sys2Proof.Machine
end

