-- ==== Sys2Proof/Machine/Playback.lean ====
section
/-! DEFINITION. Construction (70_reset_and_hazards.md section 1) and the host operations (43_playback_control.md), each
one atomic step. A rejected operation changes no state of the engine (R140). -/

namespace Sys2Proof.Machine

/-- Reset is construction (R190): a configuration that is not well-formed is refused with ConfigError and no engine
exists (R13, R171). -/
def construct (c : Config) : Except ResultCode State :=
  if c.wf then .ok (State.resetWith c) else .error .configError

/-- What a successful `playScore` does to the engine (R141). -/
def EngineState.startPlayback (e : EngineState) (bytes : List Byte) : EngineState :=
  { e.rewind with
    score := some (Memory.ofBytes bytes)
    scoreLen := bytes.length
    chans := e.chans.map Channel.clear
    errorStatus := ResultCode.ok.code
    playbackState := playing
    timerArmed := true }

/-- `playScore(buf)` (R141). A buffer of more than 2^ADDR_BITS bytes is no operand of it (log 11). -/
def playScore (buf : Option (List Byte)) (s : State) : Result :=
  if s.eng.isPlaying then .next (s.answer (.code .concurrentStartError))
  else
    match buf with
    | none => .next (s.answer (.code .configError))
    | some bytes =>
      if bytes.length ≤ 2 ^ s.cfg.addrBits then
        .next ((s.withEng (s.eng.startPlayback bytes)).answer (.code .ok))
      else .refused .scoreTooLong

/-- What `stopScore` does to the engine (R142). -/
def EngineState.stopPlayback (e : EngineState) : EngineState :=
  { e.silenceAll.rewind with
    timerArmed := false
    playbackState := if e.isPlaying then stopped else e.playbackState }

/-- `stopScore()` (R142). -/
def stopScore (s : State) : Result := .next ((s.withEng s.eng.stopPlayback).answer (.code .ok))

/-- What an accepted `setSpeed` does to the engine (R143). -/
def EngineState.writeSpeed (e : EngineState) (percent : Nat) : EngineState :=
  { e with speedPercent := BitVec.ofNat 16 percent, speedScale := speedScaleFor percent }

/-- `setSpeed(percent)` (R143). -/
def setSpeed (percent : Nat) (s : State) : Result :=
  if speedAccepted percent then .next ((s.withEng (s.eng.writeSpeed percent)).answer (.code .ok))
  else .next (s.answer (.code .configError))

/-- `isPlaying()` (R144). -/
def isPlayingOp (s : State) : Result := .next (s.answer (.playingFlag s.eng.isPlaying))

/-- `status()` (R145). -/
def statusOp (s : State) : Result := .next (s.answer (.statusValue s.eng.errorStatus))

/-- What `teardown` does to the engine (R146). -/
def EngineState.tearDown (e : EngineState) : EngineState :=
  { e.silenceAll.rewind with timerArmed := false, playbackState := idle }

/-- `teardown()` (R146). -/
def teardown (s : State) : Result := .next ((s.withEng s.eng.tearDown).answer (.code .ok))

/-- A host operation (R140). -/
def hostOp (op : HostOp) (s : State) : Result :=
  match op with
  | .playScore buf => playScore buf s
  | .stopScore => stopScore s
  | .setSpeed percent => setSpeed percent s
  | .isPlaying => isPlayingOp s
  | .status => statusOp s
  | .teardown => teardown s

end Sys2Proof.Machine
end

