-- ==== Sys2Proof/Machine/Agents.lean ====
section
/-! DEFINITION. Which agent steps (R19, R58, R120): the list of inputs says in which order the timer fires and the host
operates; each entry is one atomic step. -/

namespace Sys2Proof.Machine

/-- The timer fires: a Tick is delivered exactly when the timer is armed (R120); a disarmed timer delivers none (log 3). -/
def timerFires (s : State) : Result := if s.eng.timerArmed then tick s else .next s

/-- The first input is taken; the others wait. -/
def State.withInputs (s : State) (rest : List Input) : State := { s with inputs := rest }

/-- One step of one agent. With no input listed the timer fires alone, or the engine waits for the host (R190; log 2).
From `playbackState == 3` there is no step (R182). -/
def agentStep (s : State) : Result :=
  if s.eng.stateIllegal then .fault .invariantViolation
  else
    match s.inputs with
    | [] => timerFires s
    | .tick :: rest => timerFires (s.withInputs rest)
    | .host op :: rest => hostOp op (s.withInputs rest)

end Sys2Proof.Machine
end

