-- ==== Sys2Proof/Machine/Step.lean ====
section
/-! DEFINITION. One step of the machine: one Tick or one host operation, indivisible (R58). -/

namespace Sys2Proof.Machine

/-- One step (R58, R120, R140). -/
def step (s : State) : Host.Outcome State Fault Refusal := agentStep s

/-- The machine with a record placed where the next step fetches, so that the next step is a Tick that decodes it first
(log 6). -/
def State.withFetchWord (s : State) (nbits w : Nat) : State := s.placeRecord (tableRecord nbits w)

end Sys2Proof.Machine
end

