-- ==== Sys2Proof/Safety.lean ====
section
/-! DEFINITION. What holds of the machine between any two steps, and what a run shows; the terms the claims use. -/

namespace Sys2Proof.Machine

/-! ### The invariant -/

/-- R24: an inactive channel's line is low. -/
abbrev Channel.silentPin (k : Channel) : Prop := k.active = false → k.pin = false

/-- R25: the counter lies within the half-period; an active channel's is at least 1, and its half-period is an entry of
the table. -/
abbrev Channel.counterOk (c : Config) (k : Channel) : Prop :=
  k.ticksRemaining ≤ k.halfPeriodTicks ∧
    (k.active = true → 1#32 ≤ k.ticksRemaining ∧ k.halfPeriodTicks ∈ c.periodTable)

/-- R22: one channel for each of `0 .. MAX_CHANS-1`. -/
abbrev EngineState.chansOk (c : Config) (e : EngineState) : Prop := e.chans.length = c.maxChans

/-- The score buffer: its canonical form, no byte outside it (R27), its bound (R10); none has no bytes. -/
abbrev EngineState.scoreOk (c : Config) (e : EngineState) : Prop :=
  e.scoreLen ≤ 2 ^ c.addrBits ∧
    (e.score = none → e.scoreLen = 0) ∧
    (Memory.wf (e.score.getD [])) ∧ ∀ x ∈ e.score.getD [], x.1 < e.scoreLen

/-- R26: `0 <= cursor <= scoreLen`. -/
abbrev EngineState.cursorOk (e : EngineState) : Prop := e.cursor ≤ e.scoreLen

/-- R28: the countdown is at most 65535 * 100. -/
abbrev EngineState.delayOk (e : EngineState) : Prop := e.eventDelay ≤ 6553500#32

/-- R29: Idle, Playing or Stopped; the value 3 is never held. -/
abbrev EngineState.stateOk (e : EngineState) : Prop := e.playbackState ≠ 3#2

/-- R30: the timer is armed exactly when Playing. -/
abbrev EngineState.timerOk (e : EngineState) : Prop := e.timerArmed = true ↔ e.playbackState = playing

/-- R31: the percent is in 1 .. 1000 and the factor is its own. -/
abbrev EngineState.speedOk (e : EngineState) : Prop :=
  1 ≤ e.speedPercent.toNat ∧ e.speedPercent.toNat ≤ 1000 ∧
    e.speedScale.toNat = 6553600 / e.speedPercent.toNat

/-- R32: 0 or 2. -/
abbrev EngineState.errorOk (e : EngineState) : Prop :=
  e.errorStatus = ResultCode.ok.code ∨ e.errorStatus = ResultCode.decodeError.code

/-- R29: with the timer disarmed every channel is silenced. -/
abbrev EngineState.quietOk (e : EngineState) : Prop :=
  e.timerArmed = false → ∀ k ∈ e.chans, k.active = false

/-- What holds between any two steps. -/
structure EngineInv (s : State) : Prop where
  cfg : s.cfg.wf
  chans : s.eng.chansOk s.cfg
  silent : ∀ k ∈ s.eng.chans, k.silentPin
  counters : ∀ k ∈ s.eng.chans, k.counterOk s.cfg
  score : s.eng.scoreOk s.cfg
  cursor : s.eng.cursorOk
  delay : s.eng.delayOk
  state : s.eng.stateOk
  timer : s.eng.timerOk
  speed : s.eng.speedOk
  error : s.eng.errorOk
  quiet : s.eng.quietOk

/-! ### Runs and what they show -/

/-- `k` steps of the machine. -/
abbrev runSteps (k : Nat) (s : State) : Result := Host.Core.run Sys2Proof.core k s

/-- The outside world issues no `playScore` any more. -/
abbrev noPlayScore (is : List Input) : Prop := ∀ buf, Input.host (.playScore buf) ∉ is

/-- The next input is a `playScore` of a buffer longer than 2^ADDR_BITS bytes, which the engine would load. -/
abbrev offersLongScore (s : State) : Prop :=
  s.eng.isPlaying = false ∧ ∃ bytes rest,
    s.inputs = .host (.playScore (some bytes)) :: rest ∧ 2 ^ s.cfg.addrBits < bytes.length

/-- How often service toggles the line of a channel in `n` Ticks in which nothing else writes it (R128). -/
def Channel.toggles : Nat → Channel → Nat
  | 0, _ => 0
  | n + 1, k => (k.service.pin ^^ k.pin).toNat + Channel.toggles n k.service

/-- A channel after `n` services. -/
def Channel.serviced : Nat → Channel → Channel
  | 0, k => k
  | n + 1, k => Channel.serviced n k.service

/-- The engine with every output line forgotten (R23). -/
def EngineState.erasePins (e : EngineState) : EngineState :=
  { e with chans := e.chans.map fun k => { k with pin := false } }

/-- The machine with every output line forgotten (R23). -/
def State.erasePins (s : State) : State := s.withEng s.eng.erasePins

/-- The machine with its tick rate and its pin map forgotten (R9, R160). -/
def State.eraseWiring (s : State) : State := { s with cfg := { s.cfg with tickHz := 0, pinMap := [] } }

/-- An outcome with its next state seen through a function. -/
def mapNext (f : State → State) : Result → Result
  | .next t => .next (f t)
  | .fault r => .fault r
  | .refused r => .refused r

end Sys2Proof.Machine
end

