-- ==== Sys2Proof/Certificates/Slice0/Obligations.lean ====
section
/-! DEFINITION. The statements about the engine for the provers. Each docstring names the rule it states; where a clause
rests on a decision of the spec's own (92_eei_decisions.md) or on a choice of the model (notes/assumptions), it says so. -/

open Sys2Proof Sys2Proof.Machine

/-! ## Encoding -/

/-- The worked encodings of 30_encoding.md section 7 and decode vectors of 95_test_vectors.md section 2.1, written out. Where
those vectors give DecodeError for a reserved byte (the spec's own decision D17), `decode` here answers a reserved instruction,
whose meaning raises the DecodeError: that is the model's choice (log 22, and the decode split of log 5). -/
def Obligations.WrittenOutWordsDecode : Prop :=
  decode [0x03#8, 0x45#8] = .ok (.setChannelPitch 3#4 0x45#8, []) ∧
  decode [0x0F#8, 0x01#8] = .ok (.setChannelPitch 15#4 1#8, []) ∧
  decode [0x8A#8] = .ok (.silenceChannel 10#4, []) ∧
  decode [0xF0#8, 0x34#8, 0x12#8] = .ok (.advanceTime 0x1234#16, []) ∧
  decode [0xFF#8, 0x00#8] = .ok (.endOfScore, [0x00#8]) ∧
  decode [0x7F#8] = .ok (.reservedLow 0x7F#8, []) ∧
  decode [0xEF#8] = .ok (.reservedMid 0xEF#8, []) ∧
  decode [0xF1#8] = .ok (.reservedHigh 0xF1#8, []) ∧
  decode [0x00#8] = .error .truncatedRecord ∧
  decode [0xF0#8, 0x01#8] = .error .truncatedRecord ∧
  decode [] = .error .missingEndMarker

/-- R71, the whole table: the length of a record is a function of its opcode byte alone, and it is the number of bytes the
decoder takes; any other byte has no length. -/
def Obligations.RecordLengthIsGivenByFirstByte : Prop :=
  (∀ b0 : Byte,
    (b0 ≤ 0x0F#8 → recordLength b0 = some 2) ∧
    (0x80#8 ≤ b0 → b0 ≤ 0x8F#8 → recordLength b0 = some 1) ∧
    (b0 = 0xF0#8 → recordLength b0 = some 3) ∧
    (b0 = 0xFF#8 → recordLength b0 = some 1) ∧
    ((0x10#8 ≤ b0 ∧ b0 ≤ 0x7F#8) ∨ (0x90#8 ≤ b0 ∧ b0 ≤ 0xEF#8) ∨ (0xF1#8 ≤ b0 ∧ b0 ≤ 0xFE#8) →
      recordLength b0 = none)) ∧
  ∀ (b0 : Byte) (rest : List Byte) (i : Instr) (tail : List Byte) (len : Nat),
    recordLength b0 = some len → decode (b0 :: rest) = .ok (i, tail) → tail = rest.drop (len - 1)

/-- R72, R73, R74, R75: the four formats bit by bit, every operand at every value, whatever follows. -/
def Obligations.FormatsDecodeFieldByField : Prop :=
  ∀ (rest : List Byte),
    (∀ (n : BitVec 4) (p : Byte), decode ((0b0000#4 ++ n) :: p :: rest) = .ok (.setChannelPitch n p, rest)) ∧
    (∀ n : BitVec 4, decode ((0b1000#4 ++ n) :: rest) = .ok (.silenceChannel n, rest)) ∧
    (∀ lo hi : Byte, ∃ t : BitVec 16,
      decode (0xF0#8 :: lo :: hi :: rest) = .ok (.advanceTime t, rest) ∧ t.toNat = hi.toNat * 256 + lo.toNat) ∧
    decode (0xFF#8 :: rest) = .ok (.endOfScore, rest)

/-- Decoding the bytes of an encodable instruction gives it back, with every operand, and leaves what follows. -/
def Obligations.DecodeOfEncodeIsIdentity : Prop :=
  ∀ (i : Instr) (rest : List Byte), i.encodable = true → decode (encode i ++ rest) = .ok (i, rest)

/-- The decoder drops no bit: what it reads, encoded again and put in front of what it left, is the stream it read; and
what it reads is encodable. -/
def Obligations.EncodeOfDecodeIsIdentity : Prop :=
  ∀ (bytes rest : List Byte) (i : Instr), decode bytes = .ok (i, rest) →
    i.encodable = true ∧ encode i ++ rest = bytes

/-! ## The score buffer -/

/-- R51: the bytes read are those of the buffer passed to `playScore`, at every index, and every step of the playback (a Tick
or a host operation) keeps them; at or past the end nothing is read, and where the decoder would read there, for an opcode
byte or for an operand byte, it raises DecodeError. -/
def Obligations.ScoreReadsBackTheBufferOfPlayScore : Prop :=
  (∀ (s t : State) (bytes : List Byte),
    s.eng.isPlaying = false → hostOp (.playScore (some bytes)) s = .next t →
      ∀ i, t.eng.memRead i = bytes[i]?) ∧
  (∀ s t : State, s.eng.playbackState = playing → step s = .next t → ∀ i, t.eng.memRead i = s.eng.memRead i) ∧
  ∀ (s : State) (i : Nat), s.eng.scoreLen ≤ i →
    s.eng.memRead i = none ∧
    (i = s.eng.cursor ∨ (∃ b0 len, s.eng.memRead s.eng.cursor = some b0 ∧ recordLength b0 = some len ∧
        s.eng.cursor < i ∧ i < s.eng.cursor + len) →
      recordStep s = .next s.raiseDecodeError)

/-- R79: a record cut off by the end of the score raises DecodeError, and the decode loop ends there; so does a score that
runs off its end: after a record that reaches the end and is not EndOfScore, the next pass raises DecodeError. -/
def Obligations.TruncatedOrUnterminatedScoreRaisesDecodeError : Prop :=
  ∀ (s : State) (m : Nat),
    (s.eng.scoreLen ≤ s.eng.cursor →
      recordStep s = .next s.raiseDecodeError ∧ decodeLoop (m + 1) s = .next s.raiseDecodeError) ∧
    (∀ (b0 : Byte) (len : Nat), s.eng.memRead s.eng.cursor = some b0 → recordLength b0 = some len →
      s.eng.scoreLen < s.eng.cursor + len →
      recordStep s = .next s.raiseDecodeError ∧ decodeLoop (m + 1) s = .next s.raiseDecodeError) ∧
    ∀ (i : Instr) (tail : List Byte) (t : State), decode s.eng.recordBytes = .ok (i, tail) → i.legal s.cfg = true →
      i ≠ .endOfScore → exec i s = .next t → t.eng.scoreLen ≤ t.eng.cursor →
      recordStep t = .next t.raiseDecodeError ∧
        (recordEndsLoop i t = false → decodeLoop (m + 2) s = .next t.raiseDecodeError)

/-- Frame of every command: every byte of the score reads as before, and the score, its length, the tempo and the configuration
are unchanged (R50, R130); so are the model's own fields `inputs` (log 2) and `result` (log 4). -/
def Obligations.CommandsLeaveScoreTempoAndConfiguration : Prop :=
  ∀ (i : Instr) (s t : State), exec i s = .next t →
    (∀ a, t.eng.memRead a = s.eng.memRead a) ∧ t.eng.score = s.eng.score ∧ t.eng.scoreLen = s.eng.scoreLen ∧
    t.eng.speedPercent = s.eng.speedPercent ∧ t.eng.speedScale = s.eng.speedScale ∧
    t.cfg = s.cfg ∧ t.inputs = s.inputs ∧ t.result = s.result

/-! ## The commands: result, frame and completion -/

/-- SetChannelPitch with a channel and a pitch that exist runs: the channel is active with a full counter of the table's
half-period and its pin as it was, every other channel and every other register is as before, the cursor is past the
record. The counter and the pin after a re-pitch are the spec's own decision D19 (log 18). -/
def Obligations.SetChannelPitchStartsToneOnItsChannelAlone : Prop :=
  ∀ (n : BitVec 4) (p : Byte) (hp : U32) (s : State),
    n.toNat < s.cfg.maxChans → s.cfg.periodTable[p.toNat]? = some hp →
    ∃ chans',
      exec (.setChannelPitch n p) s =
        .next { s with eng := { s.eng with cursor := s.eng.cursor + 2, chans := chans' } } ∧
      chans'.length = s.eng.chans.length ∧
      ∀ (c : Nat) (k : Channel), s.eng.chans[c]? = some k →
        chans'[c]? = some
          (if c = n.toNat then { active := true, halfPeriodTicks := hp, ticksRemaining := hp, pin := k.pin } else k)

/-- SilenceChannel with a channel that exists runs: the channel is inactive and low and keeps its counters, every other
channel and register is as before. That the counters are kept is the spec's own decision D20 (log 18). -/
def Obligations.SilenceChannelSilencesItsChannelAlone : Prop :=
  ∀ (n : BitVec 4) (s : State), n.toNat < s.cfg.maxChans →
    ∃ chans',
      exec (.silenceChannel n) s =
        .next { s with eng := { s.eng with cursor := s.eng.cursor + 1, chans := chans' } } ∧
      chans'.length = s.eng.chans.length ∧
      ∀ (c : Nat) (k : Channel), s.eng.chans[c]? = some k →
        chans'[c]? = some (if c = n.toNat then { k with active := false, pin := false } else k)

/-- AdvanceTime runs in every state: the countdown is ScaleDelay of the count, computed exactly and without wrapping, and
nothing else but the cursor changes. The form of ScaleDelay is the spec's own decision D12 (log 17). -/
def Obligations.AdvanceTimeLoadsTheScaledDelay : Prop :=
  ∀ (t : BitVec 16) (s : State), ∃ d : U32,
    exec (.advanceTime t) s =
      .next { s with eng := { s.eng with cursor := s.eng.cursor + 3, eventDelay := d } } ∧
    d.toNat = (t.toNat * s.eng.speedScale.toNat + 32768) / 65536

/-- EndOfScore (R94) runs in every state: every channel is inactive and low with its counters kept, the timer is disarmed,
the state is Stopped, `errorStatus` and every other register is as before; it ends the decode loop, so no byte after it is
read; and no Tick follows. That a timer firing listed after it is taken from `inputs` and changes nothing else is the model's
reading (log 3). -/
def Obligations.EndOfScoreSilencesDisarmsAndStops : Prop :=
  ∀ s : State, ∃ chans' t,
    t = { s with
      eng := { s.eng with
        cursor := s.eng.cursor + 1, chans := chans', timerArmed := false, playbackState := stopped } } ∧
    exec .endOfScore s = .next t ∧
    chans'.length = s.eng.chans.length ∧
    (∀ (c : Nat) (k : Channel), s.eng.chans[c]? = some k → chans'[c]? = some { k with active := false, pin := false }) ∧
    (∀ (rest : List Byte) (m : Nat), decode s.eng.recordBytes = .ok (.endOfScore, rest) →
      decodeLoop (m + 1) s = .next t) ∧
    ∀ rest, step { t with inputs := .tick :: rest } = .next { t with inputs := rest }

/-- A reserved opcode raises DecodeError, whichever byte it is: every channel silenced, the timer disarmed, Stopped,
`errorStatus` 2, the cursor at the byte and everything else as before. That reserved bytes do so is the spec's own
decision D17 (log 19). -/
def Obligations.ReservedOpcodesRaiseDecodeError : Prop :=
  ∀ (i : Instr) (b : Byte) (s : State), i = .reservedLow b ∨ i = .reservedMid b ∨ i = .reservedHigh b →
    ∃ chans',
      exec i s = .next { s with
        eng := { s.eng with
          chans := chans', timerArmed := false, playbackState := stopped, errorStatus := 2#2 } } ∧
      chans'.length = s.eng.chans.length ∧
      ∀ (c : Nat) (k : Channel), s.eng.chans[c]? = some k → chans'[c]? = some { k with active := false, pin := false }

/-- A record that names a channel or a pitch the configuration does not have raises DecodeError with the cursor at the
record (R76, R78; the pitch check is the spec's own decision D3, log 19). -/
def Obligations.OutOfRangeOperandsRaiseDecodeError : Prop :=
  ∀ (n : BitVec 4) (p : Byte) (s : State),
    (s.cfg.maxChans ≤ n.toNat ∨ s.cfg.numPitches ≤ p.toNat →
      exec (.setChannelPitch n p) s = .next s.raiseDecodeError) ∧
    (s.cfg.maxChans ≤ n.toNat → exec (.silenceChannel n) s = .next s.raiseDecodeError) ∧
    s.raiseDecodeError.eng.cursor = s.eng.cursor

/-! ## The decode loop -/

/-- R174: when DecodeOne fails, the fail-stop sequence runs and the Tick's decode loop ends there: every channel inactive
and low, the timer disarmed, Stopped, `errorStatus` 2; nothing is saved and nothing else changes, so the records decoded
before keep their effects but for what the silencing overwrites. -/
def Obligations.DecodeErrorRunsFailStopAndEndsTheTick : Prop :=
  ∀ (s : State) (cause : DecodeCause) (m : Nat), decodeOne s.cfg s.eng.recordBytes = .error cause →
    ∃ chans',
      decodeLoop (m + 1) s = .next { s with
        eng := { s.eng with
          chans := chans', timerArmed := false, playbackState := stopped, errorStatus := 2#2 } } ∧
      chans'.length = s.eng.chans.length ∧
      ∀ (c : Nat) (k : Channel), s.eng.chans[c]? = some k → chans'[c]? = some { k with active := false, pin := false }

/-- One pass of the decode loop agrees with DecodeOne of R90 on the score bytes at the cursor: where it raises DecodeError, so
does the pass; where it gives a command and a length, the pass executes that command, which is legal, and the cursor moves by
that length (R95, R96). The bytes both are given are those at `cursor`, `cursor + 1` and `cursor + 2` in this order, up to the
end of the score, and no others; that the model takes them as one window is its own (log 24), as is the decode split (log 5). -/
def Obligations.RecordPassAgreesWithDecodeOne : Prop :=
  ∀ s : State,
    (∀ j, s.eng.recordBytes[j]? = if j < 3 then s.eng.memRead (s.eng.cursor + j) else none) ∧
    (∀ cause, decodeOne s.cfg s.eng.recordBytes = .error cause → recordStep s = .next s.raiseDecodeError) ∧
    ∀ i len, decodeOne s.cfg s.eng.recordBytes = .ok (i, len) →
      i.legal s.cfg = true ∧ recordStep s = exec i s ∧
        ∃ t, exec i s = .next t ∧ t.eng.cursor = s.eng.cursor + len ∧ t.eng.errorStatus = s.eng.errorStatus

/-- A step runs the decoded instruction: a Tick in which the countdown is due services the channels, and then what the
bytes at the cursor decode to is executed by exec; after a record that does not end the loop, the loop goes on with the
next one, which it runs in the same way (R95, R124, R125). Whatever the bytes at the cursor are, a record or none, a due Tick is
its decode loop. The loop ends at EndOfScore, at an AdvanceTime that left a nonzero delay and at a record that raised
DecodeError, and it goes on after every other record (where there is no record, O15). That several records run in one Tick is the spec's own decision D21
(log 19), and that the step is a Tick when no input is listed is the model's choice (log 2). -/
def Obligations.StepRunsTheDecodedRecord : Prop :=
  (∀ (s u : State) (e : EngineState) (i : Instr) (rest : List Input) (tail : List Byte) (m : Nat),
    s.eng.playbackState ≠ 3#2 → s.eng.timerArmed = true →
    (s.inputs = [] ∧ rest = [] ∨ s.inputs = .tick :: rest) →
    s.eng.serviceChannels = some e → s.eng.eventDelay.toNat ≤ 1 →
    u = { s with inputs := rest, eng := { e with eventDelay := 0 } } →
    decode u.eng.recordBytes = .ok (i, tail) → passesAllowed u = m + 1 →
    step s = match exec i u with
      | .next t => if recordEndsLoop i t then .next t else decodeLoop m t
      | .fault f => .fault f
      | .refused r => .refused r) ∧
  (∀ (u : State) (i : Instr) (tail : List Byte) (m : Nat), decode u.eng.recordBytes = .ok (i, tail) →
    decodeLoop (m + 1) u = match exec i u with
      | .next t => if recordEndsLoop i t then .next t else decodeLoop m t
      | .fault f => .fault f
      | .refused r => .refused r) ∧
  (∀ (s u : State) (e : EngineState) (rest : List Input),
    s.eng.playbackState ≠ 3#2 → s.eng.timerArmed = true →
    (s.inputs = [] ∧ rest = [] ∨ s.inputs = .tick :: rest) →
    s.eng.serviceChannels = some e → s.eng.eventDelay.toNat ≤ 1 →
    u = { s with inputs := rest, eng := { e with eventDelay := 0 } } →
    step s = decodeLoop (passesAllowed u) u) ∧
  ∀ (u t : State) (i : Instr) (tail : List Byte) (m : Nat), decode u.eng.recordBytes = .ok (i, tail) →
    exec i u = .next t →
    (i.legal u.cfg = false ∨ i = .endOfScore ∨ (∃ n, i = .advanceTime n ∧ t.eng.eventDelay ≠ 0) →
      decodeLoop (m + 1) u = .next t) ∧
    (i.legal u.cfg = true → i ≠ .endOfScore → (∀ n, i = .advanceTime n → t.eng.eventDelay = 0) →
      decodeLoop (m + 1) u = decodeLoop m t)

/-- The decode loop ends within one pass for each byte left and one more (R95), in every state: with that many passes it
answers a next state, and a Tick without MAX_RECORDS_PER_TICK gets that many, so it is not refused (log 8). -/
def Obligations.DecodeLoopEndsWithinTheScore : Prop :=
  (∀ (s : State) (m : Nat), s.eng.scoreLen - s.eng.cursor < m → ∃ t, decodeLoop m s = .next t) ∧
  ∀ s : State, s.cfg.maxRecordsPerTick = none → s.eng.scoreLen - s.eng.cursor < passesAllowed s

/-- A limit on the records of a Tick (R193, log 8) only refuses: a decode loop that ends within a number of passes ends in the
same state with any greater number; and the limit is the one that the configuration sets. -/
def Obligations.RecordLimitNeverChangesAnEffect : Prop :=
  (∀ (s t : State) (m m' : Nat), m ≤ m' → decodeLoop m s = .next t → decodeLoop m' s = .next t) ∧
  ∀ (s : State) (m : Nat), s.cfg.maxRecordsPerTick = some m → passesAllowed s = m

/-- The cursor only moves forward in a Tick and does not pass the end of the score (R26, R96, R98). -/
def Obligations.CursorOnlyMovesForwardInATick : Prop :=
  ∀ s t : State, tick s = .next t →
    s.eng.cursor ≤ t.eng.cursor ∧ t.eng.cursor ≤ max s.eng.cursor s.eng.scoreLen

/-! ## The Tick -/

/-- R121: service of every channel at once. An inactive one is untouched; an active one counts down by one, and at zero its
pin toggles and its counter reloads; no other register is written. Service happens whenever no active channel's counter is
0, which holds in every state that meets the invariant; where one is, the Tick is the fault InvariantViolation. -/
def Obligations.ChannelServiceCountsDownAndToggles : Prop :=
  (∀ e f : EngineState, e.serviceChannels = some f →
    f = { e with chans := f.chans } ∧ f.chans.length = e.chans.length ∧
    ∀ (c : Nat) (k : Channel), e.chans[c]? = some k → ∃ k' : Channel, f.chans[c]? = some k' ∧
      (k.active = false → k' = k) ∧
      (k.active = true → 2 ≤ k.ticksRemaining.toNat →
        k' = { k with ticksRemaining := k'.ticksRemaining } ∧
          k'.ticksRemaining.toNat + 1 = k.ticksRemaining.toNat) ∧
      (k.active = true → k.ticksRemaining.toNat = 1 →
        k' = { k with pin := !k.pin, ticksRemaining := k.halfPeriodTicks })) ∧
  (∀ s : State, (∀ k ∈ s.eng.chans, k.active = true → k.ticksRemaining ≠ 0) →
    ∃ f, s.eng.serviceChannels = some f) ∧
  (∀ s : State, EngineInv s → ∃ f, s.eng.serviceChannels = some f) ∧
  ∀ s : State, (∃ k ∈ s.eng.chans, k.active = true ∧ k.ticksRemaining = 0) →
    tick s = .fault .invariantViolation

/-- The service of a channel depends on that channel alone (R123). -/
def Obligations.ChannelServiceIsIndependent : Prop :=
  ∀ (e₁ e₂ f₁ f₂ : EngineState) (c : Nat),
    e₁.serviceChannels = some f₁ → e₂.serviceChannels = some f₂ → e₁.chans[c]? = e₂.chans[c]? →
      f₁.chans[c]? = f₂.chans[c]?

/-- A Tick in which the countdown is not due completes: it services the channels, counts down by one and decodes nothing
(R124; the down-counter is the spec's own decision D10). -/
def Obligations.TickBeforeTheEventOnlyCountsDown : Prop :=
  ∀ (s : State) (e : EngineState), s.eng.serviceChannels = some e → 2 ≤ s.eng.eventDelay.toNat →
    ∃ d : U32, tick s = .next { s with eng := { e with eventDelay := d } } ∧
      d.toNat + 1 = s.eng.eventDelay.toNat

/-- A Tick is delivered exactly when the timer is armed; while it is disarmed a firing of the timer changes nothing of the
engine (R120). The clauses for an empty list of inputs, with which the timer fires alone or the engine waits, are the model's
choice (log 2); that a firing of the disarmed timer is taken from the list is the model's reading (log 3). -/
def Obligations.TickIsDeliveredExactlyWhenArmed : Prop :=
  ∀ s : State, s.eng.playbackState ≠ 3#2 →
    (s.eng.timerArmed = true → s.inputs = [] → step s = tick s) ∧
    (s.eng.timerArmed = false → s.inputs = [] → step s = .next s) ∧
    ∀ rest, s.inputs = .tick :: rest →
      (s.eng.timerArmed = true → step s = tick { s with inputs := rest }) ∧
      (s.eng.timerArmed = false → step s = .next { s with inputs := rest })

/-- A Tick writes neither the tempo nor the score, and changes the playback state, the timer and the error status only
together, to Stopped and disarmed, with the error status kept (EndOfScore) or DecodeError (R130). -/
def Obligations.TickChangesControlOnlyByStopping : Prop :=
  ∀ s t : State, tick s = .next t →
    t.eng.speedPercent = s.eng.speedPercent ∧ t.eng.speedScale = s.eng.speedScale ∧
    t.eng.score = s.eng.score ∧ t.eng.scoreLen = s.eng.scoreLen ∧
    t.inputs = s.inputs ∧ t.result = s.result ∧
    ((t.eng.playbackState = s.eng.playbackState ∧ t.eng.timerArmed = s.eng.timerArmed ∧
        t.eng.errorStatus = s.eng.errorStatus) ∨
      (t.eng.playbackState = stopped ∧ t.eng.timerArmed = false ∧
        (t.eng.errorStatus = s.eng.errorStatus ∨ t.eng.errorStatus = 2#2) ∧
        ∀ k ∈ t.eng.chans, k.active = false ∧ k.pin = false))

/-- Event timing (R129): from a state with a countdown of `D`, the next `D - 1` Ticks all complete and decode nothing, and
the Tick after them decodes at the same cursor. The runs are those in which the timer fires alone (empty `inputs`, log 2): runs
with host operations between the Ticks are left out. The down-counter is the spec's own decision D10 (log 19). -/
def Obligations.CountdownOfDTicksDecodesInTickD : Prop :=
  ∀ s : State, EngineInv s → s.eng.playbackState = playing → s.inputs = [] → 1 ≤ s.eng.eventDelay.toNat →
    (∀ n, n < s.eng.eventDelay.toNat → ∃ t, runSteps n s = .next t ∧
      t.eng.eventDelay.toNat = s.eng.eventDelay.toNat - n ∧ t.eng.cursor = s.eng.cursor ∧
      t.eng.playbackState = playing ∧ t.eng.errorStatus = s.eng.errorStatus) ∧
    ∃ t u, runSteps (s.eng.eventDelay.toNat - 1) s = .next t ∧
      step t = decodeLoop (passesAllowed u) u ∧ u.eng.cursor = s.eng.cursor ∧ u.eng.eventDelay = 0 ∧
      u.eng.chans = t.eng.chans.map Channel.service

/-- Phase (R127): a channel whose counter is full toggles in exactly the Ticks that are multiples of its half-period, for as
long as only Ticks that decode nothing pass: after `n` of them, `n` less than the countdown, its counter and its level are
these. The runs are those in which the timer fires alone (empty `inputs`, log 2): host operations between the Ticks, and Ticks
that decode records, be they for other channels, are left out. -/
def Obligations.ChannelKeepsItsPhaseOverTicks : Prop :=
  ∀ (s : State) (c : Nat) (k : Channel) (n : Nat), EngineInv s → s.eng.playbackState = playing → s.inputs = [] →
    s.eng.chans[c]? = some k → k.active = true → k.ticksRemaining = k.halfPeriodTicks →
    n < s.eng.eventDelay.toNat →
    ∃ (t : State) (k' : Channel), runSteps n s = .next t ∧ t.eng.chans[c]? = some k' ∧
      k'.active = true ∧ k'.halfPeriodTicks = k.halfPeriodTicks ∧
      k'.ticksRemaining.toNat = k.halfPeriodTicks.toNat - n % k.halfPeriodTicks.toNat ∧
      k'.pin = (k.pin ^^ decide (n / k.halfPeriodTicks.toNat % 2 = 1))

/-- Toggle count (R128): a channel with a full counter, serviced `D` times, toggles `floor(D / hp)` times. -/
def Obligations.ServiceTogglesFloorDOverHpTimes : Prop :=
  ∀ (k : Channel) (d : Nat), k.active = true → 1 ≤ k.halfPeriodTicks.toNat →
    k.ticksRemaining = k.halfPeriodTicks →
    Channel.toggles d k = d / k.halfPeriodTicks.toNat ∧
      (Channel.serviced d k).pin = (k.pin ^^ decide (Channel.toggles d k % 2 = 1))

/-! ## Host operations -/

/-- R173: `playScore` while Playing returns ConcurrentStartError with no side effect, whatever its operand. -/
def Obligations.PlayScoreWhilePlayingIsRejectedUnchanged : Prop :=
  ∀ (buf : Option (List Byte)) (s : State), s.eng.playbackState = playing →
    hostOp (.playScore buf) s = .next { s with result := some (.code .concurrentStartError) }

/-- `playScore` of a buffer when not Playing completes: Playing, armed, the cursor at 0, no delay, every channel cleared and
low, `errorStatus` 0, the tempo kept, OK returned, and every byte of the score reads as in the buffer given (R141; clearing `errorStatus` is the spec's own decision D13, keeping the
tempo D29; log 20). -/
def Obligations.PlayScoreStartsPlayback : Prop :=
  ∀ (bytes : List Byte) (s : State), s.eng.playbackState ≠ playing → bytes.length ≤ 2 ^ s.cfg.addrBits →
    ∃ chans' m t,
      t = { s with
        eng := { s.eng with
          chans := chans', score := some m, scoreLen := bytes.length, cursor := 0, eventDelay := 0,
          errorStatus := 0#2, playbackState := playing, timerArmed := true }
        result := some (.code .ok) } ∧
      hostOp (.playScore (some bytes)) s = .next t ∧
      (∀ i, t.eng.memRead i = bytes[i]?) ∧
      chans'.length = s.eng.chans.length ∧
      ∀ k ∈ chans', k = { active := false, halfPeriodTicks := 0, ticksRemaining := 0, pin := false }

/-- `stopScore` completes in every state: disarmed, every channel inactive and low with its counters kept, cursor and
countdown 0, Stopped if it was Playing and else the state kept, OK returned; and a second call changes nothing more
(R142; that Idle stays Idle is the spec's own decision D30, log 20). -/
def Obligations.StopScoreSilencesAndIsIdempotent : Prop :=
  ∀ s : State, ∃ chans' t,
    hostOp .stopScore s = .next t ∧
    t = { s with
      eng := { s.eng with
        chans := chans', timerArmed := false, cursor := 0, eventDelay := 0,
        playbackState := if s.eng.playbackState = playing then stopped else s.eng.playbackState }
      result := some (.code .ok) } ∧
    chans'.length = s.eng.chans.length ∧
    (∀ (c : Nat) (k : Channel), s.eng.chans[c]? = some k → chans'[c]? = some { k with active := false, pin := false }) ∧
    hostOp .stopScore t = .next t

/-- `setSpeed` of 1 .. 1000 completes in every state and writes the two speed registers alone: the percent and
`floor(6553600 / percent)`; the countdown in flight, the channels and the table are not touched (R143, R195; the form of
the factor is the spec's own decision D12, log 17). -/
def Obligations.SetSpeedWritesTheTempoAlone : Prop :=
  ∀ (percent : Nat) (s : State), 1 ≤ percent → percent ≤ 1000 →
    ∃ (sp : BitVec 16) (sc : U32),
      hostOp (.setSpeed percent) s = .next { s with
        eng := { s.eng with speedPercent := sp, speedScale := sc }
        result := some (.code .ok) } ∧
      sp.toNat = percent ∧ sc.toNat = 6553600 / percent

/-- ConfigError (R171): `setSpeed` of 0 or of more than 1000, and `playScore` of no buffer when not Playing, return
ConfigError and change no state of the engine; an ill-formed configuration gives no engine. The bound 1000 is the spec's own
decision D8 (log 20), and so are the bounds of the configuration (D2, D3, D24); that a pin map with a line missing, too many or
repeated is ill-formed rests on the spec's own decision D32 and on the model's form of the pin map (log 15). -/
def Obligations.ConfigErrorsAreRejectedUnchanged : Prop :=
  (∀ (percent : Nat) (s : State), percent = 0 ∨ 1000 < percent →
    hostOp (.setSpeed percent) s = .next { s with result := some (.code .configError) }) ∧
  (∀ s : State, s.eng.playbackState ≠ playing →
    hostOp (.playScore none) s = .next { s with result := some (.code .configError) }) ∧
  (∀ c : Config, ¬ c.wf → construct c = .error .configError) ∧
  ∀ c : Config,
    c.pinMap.length ≠ c.maxChans ∨
      (∃ (i j : Nat) (line : Nat), i < j ∧ c.pinMap[i]? = some line ∧ c.pinMap[j]? = some line) →
    construct c = .error .configError

/-- R144: `isPlaying` returns whether the state is Playing and writes nothing; after EndOfScore or a DecodeError it returns
false. -/
def Obligations.IsPlayingReportsTheStateWithoutSideEffects : Prop :=
  (∀ s : State, ∃ b : Bool,
    hostOp .isPlaying s = .next { s with result := some (.playingFlag b) } ∧
      (b = true ↔ s.eng.playbackState = playing)) ∧
  (∀ s t : State, exec .endOfScore s = .next t →
    hostOp .isPlaying t = .next { t with result := some (.playingFlag false) }) ∧
  ∀ s t : State, t = s.raiseDecodeError →
    hostOp .isPlaying t = .next { t with result := some (.playingFlag false) }

/-- `status` returns `errorStatus` and writes nothing: after a DecodeError a first and a second read both return 2 (R145; the
status register is the spec's own decision D13, log 20). -/
def Obligations.StatusReadsDecodeErrorWithoutClearing : Prop :=
  (∀ s : State, hostOp .status s = .next { s with result := some (.statusValue s.eng.errorStatus) }) ∧
  ∀ s t : State, hostOp .status s.raiseDecodeError = .next t →
    t.eng = s.raiseDecodeError.eng ∧ t.result = some (.statusValue 2#2) ∧ hostOp .status t = .next t

/-- `teardown` completes in every state: Idle, disarmed, every channel inactive and low, cursor and countdown 0, the error
status and the tempo kept (R146; the operation is the spec's own decision D31, log 20). -/
def Obligations.TeardownGoesToIdle : Prop :=
  ∀ s : State, ∃ chans',
    hostOp .teardown s = .next { s with
      eng := { s.eng with
        chans := chans', timerArmed := false, cursor := 0, eventDelay := 0, playbackState := idle }
      result := some (.code .ok) } ∧
    chans'.length = s.eng.chans.length ∧
    ∀ (c : Nat) (k : Channel), s.eng.chans[c]? = some k → chans'[c]? = some { k with active := false, pin := false }

/-- A host operation is one step: it takes one input and no Tick comes between (R140, R58); from the playback state 3 there
is no step (R182; log 12). -/
def Obligations.HostOperationIsOneStep : Prop :=
  (∀ (s : State) (op : HostOp) (rest : List Input), s.eng.playbackState ≠ 3#2 → s.inputs = .host op :: rest →
    step s = hostOp op { s with inputs := rest }) ∧
  ∀ s : State, s.eng.playbackState = 3#2 → step s = .fault .invariantViolation

/-- ScaleDelay is the identity at 100 percent, halves with rounding up at 200, and fits the countdown register with at most
6553500 at every percent (R147, S5; its form is the spec's own decision D12, log 17). -/
def Obligations.ScaleDelayAtNominalAndDoubleSpeed : Prop :=
  ∀ t : BitVec 16,
    (scaleDelay (speedScaleFor 100) t).toNat = t.toNat ∧
    (scaleDelay (speedScaleFor 200) t).toNat = (t.toNat + 1) / 2 ∧
    ∀ percent, 1 ≤ percent → percent ≤ 1000 →
      (scaleDelay (speedScaleFor percent) t).toNat = (t.toNat * (6553600 / percent) + 32768) / 65536 ∧
        (scaleDelay (speedScaleFor percent) t).toNat ≤ 6553500

/-! ## Whole-machine rules -/

/-- R113: no step writes the period table, or anything else of the configuration. -/
def Obligations.NoStepWritesTheConfiguration : Prop :=
  ∀ s t : State, step s = .next t → t.cfg = s.cfg ∧ t.cfg.periodTable = s.cfg.periodTable

/-- Construction (R190): a well-formed configuration gives an engine with the reset values of R35, which meets the invariant.
The values are the spec's own decision D15 (log 21). -/
def Obligations.ConstructionGivesTheResetValues : Prop :=
  ∀ c : Config, c.wf → ∃ s, construct c = .ok s ∧ EngineInv s ∧ s.cfg = c ∧ s.eng.chans.length = c.maxChans ∧
    (∀ k ∈ s.eng.chans, k = { active := false, halfPeriodTicks := 0, ticksRemaining := 0, pin := false }) ∧
    s.eng.score = none ∧ s.eng.scoreLen = 0 ∧ s.eng.cursor = 0 ∧ s.eng.eventDelay = 0 ∧
    s.eng.playbackState = idle ∧ s.eng.timerArmed = false ∧ s.eng.speedPercent = 100#16 ∧
    s.eng.speedScale = 65536#32 ∧ s.eng.errorStatus = 0#2

/-- The machine right after reset meets the invariant. Its configuration is the model's choice (log 1). -/
def Obligations.ResetMeetsTheInvariant : Prop := EngineInv State.reset

/-- The invariant (R24 to R32) holds after every step from a state in which it holds. -/
def Obligations.EveryStepKeepsTheInvariant : Prop :=
  ∀ s t : State, EngineInv s → step s = .next t → EngineInv t

/-- R24: between any two steps of any run of any engine, under any order of Ticks and host operations, an inactive
channel's pin is low; the converse does not hold, since some run leaves an active channel low. The order is the model's list
`inputs` (log 2). -/
def Obligations.InactiveChannelsAreLowInEveryReachableState : Prop :=
  (∀ (c : Config) (inputs : List Input) (n : Nat) (t : State), c.wf →
    runSteps n { State.resetWith c with inputs := inputs } = .next t →
      ∀ k ∈ t.eng.chans, k.active = false → k.pin = false) ∧
  ∃ (c : Config) (inputs : List Input) (n : Nat) (t : State), c.wf ∧
    runSteps n { State.resetWith c with inputs := inputs } = .next t ∧
      ∃ k ∈ t.eng.chans, k.active = true ∧ k.pin = false

/-- From a state that meets the invariant every step completes, but for the two refusals the model declares: a Tick past a
configured MAX_RECORDS_PER_TICK (log 8), and a score longer than 2^ADDR_BITS (log 11). It never faults (R182). -/
def Obligations.StepStopsOnlyWhereDeclared : Prop :=
  ∀ s : State, EngineInv s →
    (∃ t, step s = .next t) ∨
    (step s = .refused .tickOverrun ∧ s.cfg.maxRecordsPerTick ≠ none) ∨
    (step s = .refused .scoreTooLong ∧ offersLongScore s)

/-- No rule's outcome depends on a pin (R23): with every pin forgotten a step does the same. -/
def Obligations.PinLevelsAreNeverRead : Prop :=
  ∀ s : State, mapNext State.erasePins (step s.erasePins) = mapNext State.erasePins (step s)

/-- No step reads TICK_HZ or the pin map (R9, R120, R160): with both forgotten a step does the same. -/
def Obligations.TickRateAndPinMapAreNeverRead : Prop :=
  ∀ s : State, mapNext State.eraseWiring (step s.eraseWiring) = mapNext State.eraseWiring (step s)

/-- A pin goes high only by the toggle of channel service in a delivered Tick, on an active channel whose counter is 1
(R161, R165). Which agent steps is the model's list `inputs` (log 2). -/
def Obligations.PinRisesOnlyByToggle : Prop :=
  ∀ (s t : State) (c : Nat) (k k' : Channel), step s = .next t →
    s.eng.chans[c]? = some k → t.eng.chans[c]? = some k' → k.pin = false → k'.pin = true →
      k.active = true ∧ k.ticksRemaining = 1 ∧ s.eng.timerArmed = true ∧ ∀ op rest, s.inputs ≠ .host op :: rest

/-- The transitions of `playbackState` (R148): a step keeps it, or stops a playback, or starts one by `playScore` from Idle or
Stopped, or goes to Idle by `teardown`; the timer is armed exactly in Playing. Which agent steps is the model's list `inputs`
(log 2). -/
def Obligations.PlaybackStateMovesOnlyAlongTheTable : Prop :=
  ∀ s t : State, EngineInv s → step s = .next t →
    (t.eng.timerArmed = true ↔ t.eng.playbackState = playing) ∧
    (t.eng.playbackState = s.eng.playbackState ∨
      (s.eng.playbackState = playing ∧ t.eng.playbackState = stopped ∧
        ∀ op rest, s.inputs = .host op :: rest → op = .stopScore) ∨
      (s.eng.playbackState ≠ playing ∧ t.eng.playbackState = playing ∧
        ∃ bytes rest, s.inputs = .host (.playScore (some bytes)) :: rest) ∨
      (t.eng.playbackState = idle ∧ ∃ rest, s.inputs = .host .teardown :: rest))

/-- Synchronous stop (R199): once `stopScore` or `teardown` has returned, every run without a new `playScore` completes, with
every channel inactive and low, the timer disarmed and `isPlaying` false, however often the timer fires. What the timer and the
host do in the run is the model's list `inputs` (log 2, log 3). -/
def Obligations.AfterStopNothingSoundsUntilPlayScore : Prop :=
  ∀ (s t : State) (op : HostOp) (n : Nat), EngineInv s → op = .stopScore ∨ op = .teardown →
    hostOp op s = .next t → noPlayScore t.inputs →
    ∃ u, runSteps n t = .next u ∧ u.eng.timerArmed = false ∧ u.eng.isPlaying = false ∧
      ∀ k ∈ u.eng.chans, k.active = false ∧ k.pin = false

/-- The timer requests (R149): a step asks the platform to start the timer, with TICK_HZ, exactly when it goes into Playing
from another state, and to stop it exactly when it leaves Playing. That the engine and not the host issues them is the
spec's own decision D27 (log 16); that TICK_HZ is a whole number is the model's choice (log 25). -/
def Obligations.TimerRequestsFollowPlaying : Prop :=
  ∀ s t : State, EngineInv s → step s = .next t →
    (timerRequest s t = some (.startTimer s.cfg.tickHz) ↔
      s.eng.playbackState ≠ playing ∧ t.eng.playbackState = playing) ∧
    (timerRequest s t = some .stopTimer ↔ s.eng.playbackState = playing ∧ t.eng.playbackState ≠ playing)

/-- A rejected host operation changes no state of the engine (R140): one that answers code 1, ConfigError, or code 3,
ConcurrentStartError. The numbers of the codes are the spec's own decision D33 (log 20). -/
def Obligations.RejectedOperationsChangeNoState : Prop :=
  ∀ (s t : State) (op : HostOp) (c : ResultCode), hostOp op s = .next t → t.result = some (.code c) →
    c.code = 1#2 ∨ c.code = 3#2 → t.eng = s.eng

/-- The period table (R110, R112): in a configuration an engine exists for, a higher pitch has a strictly shorter half-period,
none is 0, and there are no more pitches than the first entry counts; a configuration with an entry of 0, with two entries
that do not decrease, or with a count out of range is refused (R6, R7, R13); and one without any such defect, whose pin map
has one distinct line for each channel (the spec's own decision D32, log 15), is accepted. The bounds are the spec's own
decisions D2, D3 and D24. -/
def Obligations.PeriodTablesStrictlyDecreaseOrAreRefused : Prop :=
  ∀ c : Config,
    (c.wf → (∀ (p q : Nat) (hp hq : U32), p < q → c.periodTable[p]? = some hp → c.periodTable[q]? = some hq →
        1 ≤ hq.toNat ∧ hq.toNat < hp.toNat) ∧
      ∀ h0 : U32, c.periodTable[0]? = some h0 → c.numPitches ≤ h0.toNat) ∧
    ((∃ p : Nat, c.periodTable[p]? = some 0#32) ∨
      (∃ (p q : Nat) (hp hq : U32), p < q ∧ c.periodTable[p]? = some hp ∧ c.periodTable[q]? = some hq ∧
        hp.toNat ≤ hq.toNat) ∨
      c.maxChans = 0 ∨ 16 < c.maxChans ∨ c.numPitches = 0 ∨ 256 < c.numPitches →
      construct c = .error .configError) ∧
    (1 ≤ c.maxChans → c.maxChans ≤ 16 → 1 ≤ c.numPitches → c.numPitches ≤ 256 →
      (∀ p : Nat, c.periodTable[p]? ≠ some 0#32) →
      (∀ (p q : Nat) (hp hq : U32), p < q → c.periodTable[p]? = some hp → c.periodTable[q]? = some hq →
        hq.toNat < hp.toNat) →
      c.pinMap.length = c.maxChans →
      (∀ (i j : Nat) (line : Nat), i < j → c.pinMap[i]? = some line → c.pinMap[j]? ≠ some line) →
      ∃ s, construct c = .ok s)

/-- Silent pins, as a step keeps them (R24): from every state in which each inactive channel is low, reachable or not, a step
leads to a state in which each inactive channel is low. -/
def Obligations.EveryStepKeepsInactiveChannelsLow : Prop :=
  ∀ s t : State, (∀ k ∈ s.eng.chans, k.silentPin) → step s = .next t → ∀ k ∈ t.eng.chans, k.silentPin

/-- Synchronous stop, as a step keeps it (R199): from every state that meets the invariant with the timer disarmed and no
`playScore` to come, a step completes and leads to a state that is the same, with every channel inactive and low and not
Playing. What is to come is the model's list `inputs` (log 2, log 3). -/
def Obligations.EveryStepKeepsAStoppedEngineSilent : Prop :=
  ∀ s : State, EngineInv s → s.eng.timerArmed = false → noPlayScore s.inputs →
    ∃ t, step s = .next t ∧ EngineInv t ∧ t.eng.timerArmed = false ∧ noPlayScore t.inputs ∧
      t.eng.isPlaying = false ∧ ∀ k ∈ t.eng.chans, k.active = false ∧ k.pin = false
end

