-- ==== Sys2Proof/Laws/Decode.lean ====
section
/-! SUPPORT. The bit fields of the formats, and what decoding a first byte gives. -/

namespace Sys2Proof

theorem highNibble_append : ∀ a n : BitVec 4, highNibble (a ++ n) = a := by decide

theorem lowNibble_append : ∀ a n : BitVec 4, lowNibble (a ++ n) = n := by decide

theorem append_nibbles : ∀ b : Byte, highNibble b ++ lowNibble b = b := by decide

/-- The tick count as a number: low byte first (R52). -/
theorem toNat_countOfBytes (lo hi : Byte) : (countOfBytes lo hi).toNat = hi.toNat * 256 + lo.toNat := by
  rw [countOfBytes, BitVec.toNat_append, ← Nat.shiftLeft_add_eq_or_of_lt lo.isLt, Nat.shiftLeft_eq]

theorem toNat_countLow (t : BitVec 16) : (countLow t).toNat = t.toNat % 256 := by
  simp [countLow, BitVec.extractLsb'_toNat]

theorem toNat_countHigh (t : BitVec 16) : (countHigh t).toNat = t.toNat / 256 := by
  have := t.isLt
  simp only [countHigh, BitVec.extractLsb'_toNat, Nat.shiftRight_eq_div_pow]
  omega

theorem countOfBytes_low_high (t : BitVec 16) : countOfBytes (countLow t) (countHigh t) = t := by
  apply BitVec.eq_of_toNat_eq
  rw [toNat_countOfBytes, toNat_countLow, toNat_countHigh]
  omega

theorem countLow_countOfBytes (lo hi : Byte) : countLow (countOfBytes lo hi) = lo := by
  apply BitVec.eq_of_toNat_eq
  have := lo.isLt
  rw [toNat_countLow, toNat_countOfBytes]
  omega

theorem countHigh_countOfBytes (lo hi : Byte) : countHigh (countOfBytes lo hi) = hi := by
  apply BitVec.eq_of_toNat_eq
  have := lo.isLt
  rw [toNat_countHigh, toNat_countOfBytes]
  omega

/-- A reserved constructor of an encodable instruction holds a byte of no assigned format. -/
theorem highNibble_reserved : ∀ b : Byte,
    Instr.encodable (.reservedLow b) ∨ Instr.encodable (.reservedMid b) ∨ Instr.encodable (.reservedHigh b) →
      highNibble b ≠ 0x0#4 ∧ highNibble b ≠ 0x8#4 ∧ b ≠ 0xF0#8 ∧ b ≠ 0xFF#8 := by decide

/-- The row a reserved byte belongs to is one it is encodable in. -/
theorem reservedOf_encodable : ∀ b : Byte,
    highNibble b ≠ 0x0#4 → highNibble b ≠ 0x8#4 → b ≠ 0xF0#8 → b ≠ 0xFF#8 →
      (reservedOf b).encodable = true ∧ encode (reservedOf b) = [b] := by decide

theorem reservedOf_low : ∀ b : Byte, Instr.encodable (.reservedLow b) → reservedOf b = .reservedLow b := by decide

theorem reservedOf_mid : ∀ b : Byte, Instr.encodable (.reservedMid b) → reservedOf b = .reservedMid b := by decide

theorem reservedOf_high : ∀ b : Byte, Instr.encodable (.reservedHigh b) → reservedOf b = .reservedHigh b := by decide

theorem legal_reservedOf (c : Config) (b : Byte) : (reservedOf b).legal c = false := by
  unfold reservedOf
  split
  · rfl
  · split <;> rfl

end Sys2Proof
end

