-- ==== Sys2Proof/Laws/State.lean ====
section
/-! SUPPORT. One lemma per field per update of State, EngineState and Channel, each true by rfl, so that no proof unfolds
a record update. -/

namespace Sys2Proof.Machine

/-! ### Channel.toggle -/

@[simp] theorem Channel.toggle_active (k : Channel) : (k.toggle).active = k.active := rfl

@[simp] theorem Channel.toggle_halfPeriodTicks (k : Channel) :
    (k.toggle).halfPeriodTicks = k.halfPeriodTicks := rfl

@[simp] theorem Channel.toggle_ticksRemaining (k : Channel) :
    (k.toggle).ticksRemaining = k.ticksRemaining := rfl

@[simp] theorem Channel.toggle_pin (k : Channel) : (k.toggle).pin = !k.pin := rfl

/-! ### Channel.setLow -/

@[simp] theorem Channel.setLow_active (k : Channel) : (k.setLow).active = k.active := rfl

@[simp] theorem Channel.setLow_halfPeriodTicks (k : Channel) :
    (k.setLow).halfPeriodTicks = k.halfPeriodTicks := rfl

@[simp] theorem Channel.setLow_ticksRemaining (k : Channel) :
    (k.setLow).ticksRemaining = k.ticksRemaining := rfl

@[simp] theorem Channel.setLow_pin (k : Channel) : (k.setLow).pin = false := rfl

/-! ### Channel.silence -/

@[simp] theorem Channel.silence_active (k : Channel) : (k.silence).active = false := rfl

@[simp] theorem Channel.silence_halfPeriodTicks (k : Channel) :
    (k.silence).halfPeriodTicks = k.halfPeriodTicks := rfl

@[simp] theorem Channel.silence_ticksRemaining (k : Channel) :
    (k.silence).ticksRemaining = k.ticksRemaining := rfl

@[simp] theorem Channel.silence_pin (k : Channel) : (k.silence).pin = false := rfl

/-! ### Channel.startTone -/

@[simp] theorem Channel.startTone_active (hp : U32) (k : Channel) : (k.startTone hp).active = true := rfl

@[simp] theorem Channel.startTone_halfPeriodTicks (hp : U32) (k : Channel) :
    (k.startTone hp).halfPeriodTicks = hp := rfl

@[simp] theorem Channel.startTone_ticksRemaining (hp : U32) (k : Channel) :
    (k.startTone hp).ticksRemaining = hp := rfl

@[simp] theorem Channel.startTone_pin (hp : U32) (k : Channel) : (k.startTone hp).pin = k.pin := rfl

/-! ### Channel.clear -/

@[simp] theorem Channel.clear_active (k : Channel) : (k.clear).active = false := rfl

@[simp] theorem Channel.clear_halfPeriodTicks (k : Channel) : (k.clear).halfPeriodTicks = 0 := rfl

@[simp] theorem Channel.clear_ticksRemaining (k : Channel) : (k.clear).ticksRemaining = 0 := rfl

@[simp] theorem Channel.clear_pin (k : Channel) : (k.clear).pin = false := rfl

/-! ### EngineState.onChannel -/

@[simp] theorem EngineState.onChannel_chans (e : EngineState) (c : Nat) (f : Channel → Channel) :
    (e.onChannel c f).chans = e.chans.modify c f := rfl

@[simp] theorem EngineState.onChannel_score (e : EngineState) (c : Nat) (f : Channel → Channel) :
    (e.onChannel c f).score = e.score := rfl

@[simp] theorem EngineState.onChannel_scoreLen (e : EngineState) (c : Nat) (f : Channel → Channel) :
    (e.onChannel c f).scoreLen = e.scoreLen := rfl

@[simp] theorem EngineState.onChannel_cursor (e : EngineState) (c : Nat) (f : Channel → Channel) :
    (e.onChannel c f).cursor = e.cursor := rfl

@[simp] theorem EngineState.onChannel_eventDelay (e : EngineState) (c : Nat) (f : Channel → Channel) :
    (e.onChannel c f).eventDelay = e.eventDelay := rfl

@[simp] theorem EngineState.onChannel_playbackState (e : EngineState) (c : Nat) (f : Channel → Channel) :
    (e.onChannel c f).playbackState = e.playbackState := rfl

@[simp] theorem EngineState.onChannel_timerArmed (e : EngineState) (c : Nat) (f : Channel → Channel) :
    (e.onChannel c f).timerArmed = e.timerArmed := rfl

@[simp] theorem EngineState.onChannel_speedPercent (e : EngineState) (c : Nat) (f : Channel → Channel) :
    (e.onChannel c f).speedPercent = e.speedPercent := rfl

@[simp] theorem EngineState.onChannel_speedScale (e : EngineState) (c : Nat) (f : Channel → Channel) :
    (e.onChannel c f).speedScale = e.speedScale := rfl

@[simp] theorem EngineState.onChannel_errorStatus (e : EngineState) (c : Nat) (f : Channel → Channel) :
    (e.onChannel c f).errorStatus = e.errorStatus := rfl

/-! ### EngineState.silenceAll -/

@[simp] theorem EngineState.silenceAll_chans (e : EngineState) :
    (e.silenceAll).chans = e.chans.map Channel.silence := rfl

@[simp] theorem EngineState.silenceAll_score (e : EngineState) : (e.silenceAll).score = e.score := rfl

@[simp] theorem EngineState.silenceAll_scoreLen (e : EngineState) :
    (e.silenceAll).scoreLen = e.scoreLen := rfl

@[simp] theorem EngineState.silenceAll_cursor (e : EngineState) : (e.silenceAll).cursor = e.cursor := rfl

@[simp] theorem EngineState.silenceAll_eventDelay (e : EngineState) :
    (e.silenceAll).eventDelay = e.eventDelay := rfl

@[simp] theorem EngineState.silenceAll_playbackState (e : EngineState) :
    (e.silenceAll).playbackState = e.playbackState := rfl

@[simp] theorem EngineState.silenceAll_timerArmed (e : EngineState) :
    (e.silenceAll).timerArmed = e.timerArmed := rfl

@[simp] theorem EngineState.silenceAll_speedPercent (e : EngineState) :
    (e.silenceAll).speedPercent = e.speedPercent := rfl

@[simp] theorem EngineState.silenceAll_speedScale (e : EngineState) :
    (e.silenceAll).speedScale = e.speedScale := rfl

@[simp] theorem EngineState.silenceAll_errorStatus (e : EngineState) :
    (e.silenceAll).errorStatus = e.errorStatus := rfl

/-! ### EngineState.advanceCursor -/

@[simp] theorem EngineState.advanceCursor_chans (e : EngineState) (n : Nat) :
    (e.advanceCursor n).chans = e.chans := rfl

@[simp] theorem EngineState.advanceCursor_score (e : EngineState) (n : Nat) :
    (e.advanceCursor n).score = e.score := rfl

@[simp] theorem EngineState.advanceCursor_scoreLen (e : EngineState) (n : Nat) :
    (e.advanceCursor n).scoreLen = e.scoreLen := rfl

@[simp] theorem EngineState.advanceCursor_cursor (e : EngineState) (n : Nat) :
    (e.advanceCursor n).cursor = e.cursor + n := rfl

@[simp] theorem EngineState.advanceCursor_eventDelay (e : EngineState) (n : Nat) :
    (e.advanceCursor n).eventDelay = e.eventDelay := rfl

@[simp] theorem EngineState.advanceCursor_playbackState (e : EngineState) (n : Nat) :
    (e.advanceCursor n).playbackState = e.playbackState := rfl

@[simp] theorem EngineState.advanceCursor_timerArmed (e : EngineState) (n : Nat) :
    (e.advanceCursor n).timerArmed = e.timerArmed := rfl

@[simp] theorem EngineState.advanceCursor_speedPercent (e : EngineState) (n : Nat) :
    (e.advanceCursor n).speedPercent = e.speedPercent := rfl

@[simp] theorem EngineState.advanceCursor_speedScale (e : EngineState) (n : Nat) :
    (e.advanceCursor n).speedScale = e.speedScale := rfl

@[simp] theorem EngineState.advanceCursor_errorStatus (e : EngineState) (n : Nat) :
    (e.advanceCursor n).errorStatus = e.errorStatus := rfl

/-! ### EngineState.loadDelay -/

@[simp] theorem EngineState.loadDelay_chans (e : EngineState) (d : U32) :
    (e.loadDelay d).chans = e.chans := rfl

@[simp] theorem EngineState.loadDelay_score (e : EngineState) (d : U32) :
    (e.loadDelay d).score = e.score := rfl

@[simp] theorem EngineState.loadDelay_scoreLen (e : EngineState) (d : U32) :
    (e.loadDelay d).scoreLen = e.scoreLen := rfl

@[simp] theorem EngineState.loadDelay_cursor (e : EngineState) (d : U32) :
    (e.loadDelay d).cursor = e.cursor := rfl

@[simp] theorem EngineState.loadDelay_eventDelay (e : EngineState) (d : U32) :
    (e.loadDelay d).eventDelay = d := rfl

@[simp] theorem EngineState.loadDelay_playbackState (e : EngineState) (d : U32) :
    (e.loadDelay d).playbackState = e.playbackState := rfl

@[simp] theorem EngineState.loadDelay_timerArmed (e : EngineState) (d : U32) :
    (e.loadDelay d).timerArmed = e.timerArmed := rfl

@[simp] theorem EngineState.loadDelay_speedPercent (e : EngineState) (d : U32) :
    (e.loadDelay d).speedPercent = e.speedPercent := rfl

@[simp] theorem EngineState.loadDelay_speedScale (e : EngineState) (d : U32) :
    (e.loadDelay d).speedScale = e.speedScale := rfl

@[simp] theorem EngineState.loadDelay_errorStatus (e : EngineState) (d : U32) :
    (e.loadDelay d).errorStatus = e.errorStatus := rfl

/-! ### EngineState.halt -/

@[simp] theorem EngineState.halt_chans (e : EngineState) : (e.halt).chans = e.chans.map Channel.silence := rfl

@[simp] theorem EngineState.halt_score (e : EngineState) : (e.halt).score = e.score := rfl

@[simp] theorem EngineState.halt_scoreLen (e : EngineState) : (e.halt).scoreLen = e.scoreLen := rfl

@[simp] theorem EngineState.halt_cursor (e : EngineState) : (e.halt).cursor = e.cursor := rfl

@[simp] theorem EngineState.halt_eventDelay (e : EngineState) : (e.halt).eventDelay = e.eventDelay := rfl

@[simp] theorem EngineState.halt_playbackState (e : EngineState) : (e.halt).playbackState = stopped := rfl

@[simp] theorem EngineState.halt_timerArmed (e : EngineState) : (e.halt).timerArmed = false := rfl

@[simp] theorem EngineState.halt_speedPercent (e : EngineState) :
    (e.halt).speedPercent = e.speedPercent := rfl

@[simp] theorem EngineState.halt_speedScale (e : EngineState) : (e.halt).speedScale = e.speedScale := rfl

@[simp] theorem EngineState.halt_errorStatus (e : EngineState) : (e.halt).errorStatus = e.errorStatus := rfl

/-! ### EngineState.rewind -/

@[simp] theorem EngineState.rewind_chans (e : EngineState) : (e.rewind).chans = e.chans := rfl

@[simp] theorem EngineState.rewind_score (e : EngineState) : (e.rewind).score = e.score := rfl

@[simp] theorem EngineState.rewind_scoreLen (e : EngineState) : (e.rewind).scoreLen = e.scoreLen := rfl

@[simp] theorem EngineState.rewind_cursor (e : EngineState) : (e.rewind).cursor = 0 := rfl

@[simp] theorem EngineState.rewind_eventDelay (e : EngineState) : (e.rewind).eventDelay = 0 := rfl

@[simp] theorem EngineState.rewind_playbackState (e : EngineState) :
    (e.rewind).playbackState = e.playbackState := rfl

@[simp] theorem EngineState.rewind_timerArmed (e : EngineState) : (e.rewind).timerArmed = e.timerArmed := rfl

@[simp] theorem EngineState.rewind_speedPercent (e : EngineState) :
    (e.rewind).speedPercent = e.speedPercent := rfl

@[simp] theorem EngineState.rewind_speedScale (e : EngineState) : (e.rewind).speedScale = e.speedScale := rfl

@[simp] theorem EngineState.rewind_errorStatus (e : EngineState) :
    (e.rewind).errorStatus = e.errorStatus := rfl

/-! ### EngineState.failStop -/

@[simp] theorem EngineState.failStop_chans (e : EngineState) :
    (e.failStop).chans = e.chans.map Channel.silence := rfl

@[simp] theorem EngineState.failStop_score (e : EngineState) : (e.failStop).score = e.score := rfl

@[simp] theorem EngineState.failStop_scoreLen (e : EngineState) : (e.failStop).scoreLen = e.scoreLen := rfl

@[simp] theorem EngineState.failStop_cursor (e : EngineState) : (e.failStop).cursor = e.cursor := rfl

@[simp] theorem EngineState.failStop_eventDelay (e : EngineState) :
    (e.failStop).eventDelay = e.eventDelay := rfl

@[simp] theorem EngineState.failStop_playbackState (e : EngineState) :
    (e.failStop).playbackState = stopped := rfl

@[simp] theorem EngineState.failStop_timerArmed (e : EngineState) : (e.failStop).timerArmed = false := rfl

@[simp] theorem EngineState.failStop_speedPercent (e : EngineState) :
    (e.failStop).speedPercent = e.speedPercent := rfl

@[simp] theorem EngineState.failStop_speedScale (e : EngineState) :
    (e.failStop).speedScale = e.speedScale := rfl

@[simp] theorem EngineState.failStop_errorStatus (e : EngineState) : (e.failStop).errorStatus = 2#2 := rfl

/-! ### EngineState.startPlayback -/

@[simp] theorem EngineState.startPlayback_chans (e : EngineState) (bs : List Byte) :
    (e.startPlayback bs).chans = e.chans.map Channel.clear := rfl

@[simp] theorem EngineState.startPlayback_score (e : EngineState) (bs : List Byte) :
    (e.startPlayback bs).score = some (Memory.ofBytes bs) := rfl

@[simp] theorem EngineState.startPlayback_scoreLen (e : EngineState) (bs : List Byte) :
    (e.startPlayback bs).scoreLen = bs.length := rfl

@[simp] theorem EngineState.startPlayback_cursor (e : EngineState) (bs : List Byte) :
    (e.startPlayback bs).cursor = 0 := rfl

@[simp] theorem EngineState.startPlayback_eventDelay (e : EngineState) (bs : List Byte) :
    (e.startPlayback bs).eventDelay = 0 := rfl

@[simp] theorem EngineState.startPlayback_playbackState (e : EngineState) (bs : List Byte) :
    (e.startPlayback bs).playbackState = playing := rfl

@[simp] theorem EngineState.startPlayback_timerArmed (e : EngineState) (bs : List Byte) :
    (e.startPlayback bs).timerArmed = true := rfl

@[simp] theorem EngineState.startPlayback_speedPercent (e : EngineState) (bs : List Byte) :
    (e.startPlayback bs).speedPercent = e.speedPercent := rfl

@[simp] theorem EngineState.startPlayback_speedScale (e : EngineState) (bs : List Byte) :
    (e.startPlayback bs).speedScale = e.speedScale := rfl

@[simp] theorem EngineState.startPlayback_errorStatus (e : EngineState) (bs : List Byte) :
    (e.startPlayback bs).errorStatus = 0#2 := rfl

/-! ### EngineState.stopPlayback -/

@[simp] theorem EngineState.stopPlayback_chans (e : EngineState) :
    (e.stopPlayback).chans = e.chans.map Channel.silence := rfl

@[simp] theorem EngineState.stopPlayback_score (e : EngineState) : (e.stopPlayback).score = e.score := rfl

@[simp] theorem EngineState.stopPlayback_scoreLen (e : EngineState) :
    (e.stopPlayback).scoreLen = e.scoreLen := rfl

@[simp] theorem EngineState.stopPlayback_cursor (e : EngineState) : (e.stopPlayback).cursor = 0 := rfl

@[simp] theorem EngineState.stopPlayback_eventDelay (e : EngineState) : (e.stopPlayback).eventDelay = 0 := rfl

@[simp] theorem EngineState.stopPlayback_playbackState (e : EngineState) :
    (e.stopPlayback).playbackState = if e.isPlaying then stopped else e.playbackState := rfl

@[simp] theorem EngineState.stopPlayback_timerArmed (e : EngineState) :
    (e.stopPlayback).timerArmed = false := rfl

@[simp] theorem EngineState.stopPlayback_speedPercent (e : EngineState) :
    (e.stopPlayback).speedPercent = e.speedPercent := rfl

@[simp] theorem EngineState.stopPlayback_speedScale (e : EngineState) :
    (e.stopPlayback).speedScale = e.speedScale := rfl

@[simp] theorem EngineState.stopPlayback_errorStatus (e : EngineState) :
    (e.stopPlayback).errorStatus = e.errorStatus := rfl

/-! ### EngineState.writeSpeed -/

@[simp] theorem EngineState.writeSpeed_chans (e : EngineState) (p : Nat) :
    (e.writeSpeed p).chans = e.chans := rfl

@[simp] theorem EngineState.writeSpeed_score (e : EngineState) (p : Nat) :
    (e.writeSpeed p).score = e.score := rfl

@[simp] theorem EngineState.writeSpeed_scoreLen (e : EngineState) (p : Nat) :
    (e.writeSpeed p).scoreLen = e.scoreLen := rfl

@[simp] theorem EngineState.writeSpeed_cursor (e : EngineState) (p : Nat) :
    (e.writeSpeed p).cursor = e.cursor := rfl

@[simp] theorem EngineState.writeSpeed_eventDelay (e : EngineState) (p : Nat) :
    (e.writeSpeed p).eventDelay = e.eventDelay := rfl

@[simp] theorem EngineState.writeSpeed_playbackState (e : EngineState) (p : Nat) :
    (e.writeSpeed p).playbackState = e.playbackState := rfl

@[simp] theorem EngineState.writeSpeed_timerArmed (e : EngineState) (p : Nat) :
    (e.writeSpeed p).timerArmed = e.timerArmed := rfl

@[simp] theorem EngineState.writeSpeed_speedPercent (e : EngineState) (p : Nat) :
    (e.writeSpeed p).speedPercent = BitVec.ofNat 16 p := rfl

@[simp] theorem EngineState.writeSpeed_speedScale (e : EngineState) (p : Nat) :
    (e.writeSpeed p).speedScale = speedScaleFor p := rfl

@[simp] theorem EngineState.writeSpeed_errorStatus (e : EngineState) (p : Nat) :
    (e.writeSpeed p).errorStatus = e.errorStatus := rfl

/-! ### EngineState.tearDown -/

@[simp] theorem EngineState.tearDown_chans (e : EngineState) :
    (e.tearDown).chans = e.chans.map Channel.silence := rfl

@[simp] theorem EngineState.tearDown_score (e : EngineState) : (e.tearDown).score = e.score := rfl

@[simp] theorem EngineState.tearDown_scoreLen (e : EngineState) : (e.tearDown).scoreLen = e.scoreLen := rfl

@[simp] theorem EngineState.tearDown_cursor (e : EngineState) : (e.tearDown).cursor = 0 := rfl

@[simp] theorem EngineState.tearDown_eventDelay (e : EngineState) : (e.tearDown).eventDelay = 0 := rfl

@[simp] theorem EngineState.tearDown_playbackState (e : EngineState) :
    (e.tearDown).playbackState = idle := rfl

@[simp] theorem EngineState.tearDown_timerArmed (e : EngineState) : (e.tearDown).timerArmed = false := rfl

@[simp] theorem EngineState.tearDown_speedPercent (e : EngineState) :
    (e.tearDown).speedPercent = e.speedPercent := rfl

@[simp] theorem EngineState.tearDown_speedScale (e : EngineState) :
    (e.tearDown).speedScale = e.speedScale := rfl

@[simp] theorem EngineState.tearDown_errorStatus (e : EngineState) :
    (e.tearDown).errorStatus = e.errorStatus := rfl

/-! ### EngineState.placeAtCursor -/

@[simp] theorem EngineState.placeAtCursor_chans (e : EngineState) (bs : List Byte) :
    (e.placeAtCursor bs).chans = e.chans := rfl

@[simp] theorem EngineState.placeAtCursor_score (e : EngineState) (bs : List Byte) :
    (e.placeAtCursor bs).score = some (Memory.writeBytes (e.score.getD []) e.cursor bs) := rfl

@[simp] theorem EngineState.placeAtCursor_scoreLen (e : EngineState) (bs : List Byte) :
    (e.placeAtCursor bs).scoreLen = max e.scoreLen (e.cursor + bs.length) := rfl

@[simp] theorem EngineState.placeAtCursor_cursor (e : EngineState) (bs : List Byte) :
    (e.placeAtCursor bs).cursor = e.cursor := rfl

@[simp] theorem EngineState.placeAtCursor_eventDelay (e : EngineState) (bs : List Byte) :
    (e.placeAtCursor bs).eventDelay = e.eventDelay := rfl

@[simp] theorem EngineState.placeAtCursor_playbackState (e : EngineState) (bs : List Byte) :
    (e.placeAtCursor bs).playbackState = e.playbackState := rfl

@[simp] theorem EngineState.placeAtCursor_timerArmed (e : EngineState) (bs : List Byte) :
    (e.placeAtCursor bs).timerArmed = e.timerArmed := rfl

@[simp] theorem EngineState.placeAtCursor_speedPercent (e : EngineState) (bs : List Byte) :
    (e.placeAtCursor bs).speedPercent = e.speedPercent := rfl

@[simp] theorem EngineState.placeAtCursor_speedScale (e : EngineState) (bs : List Byte) :
    (e.placeAtCursor bs).speedScale = e.speedScale := rfl

@[simp] theorem EngineState.placeAtCursor_errorStatus (e : EngineState) (bs : List Byte) :
    (e.placeAtCursor bs).errorStatus = e.errorStatus := rfl

/-! ### State.withEng -/

@[simp] theorem State.withEng_cfg (s : State) (e : EngineState) : (s.withEng e).cfg = s.cfg := rfl

@[simp] theorem State.withEng_eng (s : State) (e : EngineState) : (s.withEng e).eng = e := rfl

@[simp] theorem State.withEng_inputs (s : State) (e : EngineState) : (s.withEng e).inputs = s.inputs := rfl

@[simp] theorem State.withEng_result (s : State) (e : EngineState) : (s.withEng e).result = s.result := rfl

/-! ### State.answer -/

@[simp] theorem State.answer_cfg (s : State) (r : HostResult) : (s.answer r).cfg = s.cfg := rfl

@[simp] theorem State.answer_eng (s : State) (r : HostResult) : (s.answer r).eng = s.eng := rfl

@[simp] theorem State.answer_inputs (s : State) (r : HostResult) : (s.answer r).inputs = s.inputs := rfl

@[simp] theorem State.answer_result (s : State) (r : HostResult) : (s.answer r).result = some r := rfl

/-! ### State.withInputs -/

@[simp] theorem State.withInputs_cfg (s : State) (is : List Input) : (s.withInputs is).cfg = s.cfg := rfl

@[simp] theorem State.withInputs_eng (s : State) (is : List Input) : (s.withInputs is).eng = s.eng := rfl

@[simp] theorem State.withInputs_inputs (s : State) (is : List Input) : (s.withInputs is).inputs = is := rfl

@[simp] theorem State.withInputs_result (s : State) (is : List Input) :
    (s.withInputs is).result = s.result := rfl

/-! ### State.raiseDecodeError -/

@[simp] theorem State.raiseDecodeError_cfg (s : State) : (s.raiseDecodeError).cfg = s.cfg := rfl

@[simp] theorem State.raiseDecodeError_eng (s : State) : (s.raiseDecodeError).eng = s.eng.failStop := rfl

@[simp] theorem State.raiseDecodeError_inputs (s : State) : (s.raiseDecodeError).inputs = s.inputs := rfl

@[simp] theorem State.raiseDecodeError_result (s : State) : (s.raiseDecodeError).result = s.result := rfl

/-! ### State.dueTick -/

@[simp] theorem State.dueTick_cfg (s : State) (e : EngineState) : (s.dueTick e).cfg = s.cfg := rfl

@[simp] theorem State.dueTick_eng (s : State) (e : EngineState) :
    (s.dueTick e).eng = { e with eventDelay := 0, playbackState := playing, timerArmed := true } := rfl

@[simp] theorem State.dueTick_inputs (s : State) (e : EngineState) :
    (s.dueTick e).inputs = .tick :: s.inputs := rfl

@[simp] theorem State.dueTick_result (s : State) (e : EngineState) : (s.dueTick e).result = s.result := rfl

/-! ### The values of playbackState differ -/

@[simp] theorem stopped_ne_playing : stopped ≠ playing := by decide

@[simp] theorem idle_ne_playing : idle ≠ playing := by decide

@[simp] theorem idle_ne_illegal : idle ≠ 3#2 := by decide

@[simp] theorem playing_ne_illegal : playing ≠ 3#2 := by decide

@[simp] theorem stopped_ne_illegal : stopped ≠ 3#2 := by decide

@[simp] theorem State.withEng_withEng (s : State) (e f : EngineState) : (s.withEng e).withEng f = s.withEng f := rfl

@[simp] theorem State.withEng_self (s : State) : s.withEng s.eng = s := rfl

end Sys2Proof.Machine
end

