-- ==== Sys2Proof/Laws/Memory.lean ====
section
/-! SUPPORT. The score buffer: reading after writing, and the canonical form, which every memory operation keeps. -/

namespace Sys2Proof.Machine

theorem Memory.read_putFront (a : Nat) (b : Byte) (m : Memory) (x : Nat) (h : ∀ y ∈ m, a < y.1) :
    (Memory.putFront a b m).read x = if x = a then b else m.read x := by
  have below : ∀ (m : Memory) (z : Nat), (∀ y ∈ m, z < y.1) → m.read z = Memory.unlisted := by
    intro m z hz
    induction m with
    | nil => rfl
    | cons y m ih =>
      have h1 := hz y (by simp)
      simp only [Memory.read, if_neg (Nat.ne_of_gt h1)]
      exact ih fun w hw => hz w (by simp [hw])
  by_cases hb : b = Memory.unlisted
  · simp only [Memory.putFront, if_pos hb]
    split
    · next hx => rw [hx, below m a h, hb]
    · rfl
  · simp only [Memory.putFront, if_neg hb, Memory.read]
    by_cases hx : x = a
    · simp [hx]
    · simp [hx, Ne.symm hx]

theorem Memory.wf_putFront {a : Nat} {b : Byte} {m : Memory} (hm : m.wf) (h : ∀ y ∈ m, a < y.1) :
    (Memory.putFront a b m).wf := by
  unfold Memory.putFront
  split
  · exact hm
  · next hb =>
    refine ⟨List.pairwise_cons.2 ⟨fun y hy => h y hy, hm.1⟩, fun x hx => ?_⟩
    rcases List.mem_cons.1 hx with rfl | hx
    · exact hb
    · exact hm.2 x hx

theorem Memory.mem_putFront {a : Nat} {b : Byte} {m : Memory} {x : Host.Cell}
    (hx : x ∈ Memory.putFront a b m) : x.1 = a ∨ x ∈ m := by
  unfold Memory.putFront at hx
  split at hx
  · exact .inr hx
  · rcases List.mem_cons.1 hx with rfl | hx
    · exact .inl rfl
    · exact .inr hx

theorem Memory.mem_write {m : Memory} {a : Nat} {b : Byte} {x : Host.Cell} (hx : x ∈ m.write a b) :
    x.1 = a ∨ x ∈ m := by
  induction m with
  | nil => exact Memory.mem_putFront hx
  | cons y m ih =>
    obtain ⟨k, v⟩ := y
    simp only [Memory.write] at hx
    split at hx
    · exact Memory.mem_putFront hx
    · split at hx
      · rcases Memory.mem_putFront hx with h | h
        · exact .inl h
        · exact .inr (by simp [h])
      · rcases List.mem_cons.1 hx with h | h
        · exact .inr (by simp [h])
        · rcases ih h with h | h
          · exact .inl h
          · exact .inr (by simp [h])

/-- A write keeps the canonical form. -/
theorem Memory.wf_write {m : Memory} (hm : m.wf) (a : Nat) (b : Byte) : (m.write a b).wf := by
  induction m with
  | nil => exact Memory.wf_putFront hm (by simp)
  | cons y m ih =>
    obtain ⟨k, v⟩ := y
    have hp := List.pairwise_cons.1 hm.1
    have hm' : Memory.wf m := ⟨hp.2, fun x hx => hm.2 x (by simp [hx])⟩
    simp only [Memory.write]
    split
    · next h =>
      refine Memory.wf_putFront hm fun y hy => ?_
      rcases List.mem_cons.1 hy with rfl | hy
      · exact h
      · exact Nat.lt_trans h (hp.1 y hy)
    · next h1 =>
      split
      · next h2 => exact Memory.wf_putFront hm' fun y hy => by have := hp.1 y hy; simp only at this; omega
      · next h2 =>
        refine ⟨List.pairwise_cons.2 ⟨fun x hx => ?_, (ih hm').1⟩, fun x hx => ?_⟩
        · rcases Memory.mem_write hx with h | h
          · simp only; omega
          · exact hp.1 x h
        · rcases List.mem_cons.1 hx with rfl | hx
          · exact hm.2 (k, v) (by simp)
          · exact (ih hm').2 x hx

/-- A read after a write: the byte written at its address, every other byte as before. -/
theorem Memory.read_write {m : Memory} (hm : m.wf) (a : Nat) (b : Byte) (x : Nat) :
    (m.write a b).read x = if x = a then b else m.read x := by
  induction m with
  | nil => exact Memory.read_putFront a b [] x (by simp)
  | cons y m ih =>
    obtain ⟨k, v⟩ := y
    have hp := List.pairwise_cons.1 hm.1
    have hm' : Memory.wf m := ⟨hp.2, fun x hx => hm.2 x (by simp [hx])⟩
    simp only [Memory.write]
    split
    · next h =>
      refine Memory.read_putFront a b _ x fun y hy => ?_
      rcases List.mem_cons.1 hy with rfl | hy
      · exact h
      · exact Nat.lt_trans h (hp.1 y hy)
    · next h1 =>
      split
      · next h2 =>
        rw [Memory.read_putFront a b m x fun y hy => by have := hp.1 y hy; simp only at this; omega]
        split
        · rfl
        · next h => simp only [Memory.read]; rw [if_neg (by omega)]
      · next h2 =>
        simp only [Memory.read]
        split
        · next h => rw [if_neg (by omega)]
        · exact ih hm'

theorem Memory.wf_writeBytes {m : Memory} (hm : m.wf) (a : Nat) (bs : List Byte) : (m.writeBytes a bs).wf := by
  induction bs generalizing m a with
  | nil => exact hm
  | cons b bs ih => exact ih (Memory.wf_write hm a b) (a + 1)

theorem Memory.mem_ofBytesAt {a : Nat} {bs : List Byte} {x : Host.Cell} (hx : x ∈ Memory.ofBytesAt a bs) :
    a ≤ x.1 ∧ x.1 < a + bs.length := by
  induction bs generalizing a with
  | nil => simp [Memory.ofBytesAt] at hx
  | cons b bs ih =>
    rcases Memory.mem_putFront hx with h | h
    · simp [h]
    · have := ih h
      simp only [List.length_cons]
      omega

/-- The buffer a caller passes is in canonical form. -/
theorem Memory.wf_ofBytesAt (a : Nat) (bs : List Byte) : (Memory.ofBytesAt a bs).wf := by
  induction bs generalizing a with
  | nil => exact ⟨.nil, by simp [Memory.ofBytesAt]⟩
  | cons b bs ih => exact Memory.wf_putFront (ih (a + 1)) fun y hy => by have := Memory.mem_ofBytesAt hy; omega

/-- The buffer a caller passes reads back byte for byte. -/
theorem Memory.read_ofBytesAt (a : Nat) (bs : List Byte) (i : Nat) :
    (Memory.ofBytesAt a bs).read (a + i) = bs.getD i Memory.unlisted := by
  induction bs generalizing a i with
  | nil => rfl
  | cons b bs ih =>
    rw [Memory.ofBytesAt, Memory.read_putFront _ _ _ _ fun y hy => by have := Memory.mem_ofBytesAt hy; omega]
    cases i with
    | zero => simp
    | succ i =>
      rw [if_neg (by omega), show a + (i + 1) = (a + 1) + i by omega, ih]
      simp

theorem Memory.read_ofBytes (bs : List Byte) (i : Nat) :
    (Memory.ofBytes bs).read i = bs.getD i Memory.unlisted := by
  have := Memory.read_ofBytesAt 0 bs i
  simpa [Memory.ofBytes] using this

/-- A score read sees the score fields alone. -/
theorem EngineState.memRead_congr {e f : EngineState} (h : f.score = e.score) (hl : f.scoreLen = e.scoreLen)
    (i : Nat) : f.memRead i = e.memRead i := by
  simp only [EngineState.memRead, h, hl]

theorem EngineState.memRead_past {e : EngineState} {i : Nat} (h : e.scoreLen ≤ i) : e.memRead i = none := by
  simp [EngineState.memRead, Nat.not_lt.2 h]

theorem EngineState.readBytes_length (e : EngineState) (i n : Nat) :
    (e.readBytes i n).length ≤ n ∧ (e.readBytes i n).length ≤ e.scoreLen - i := by
  induction n generalizing i with
  | zero => simp [EngineState.readBytes]
  | succ n ih =>
    unfold EngineState.readBytes
    split
    · simp
    · next b hb =>
      have hi : i < e.scoreLen := by
        by_contra h
        simp [EngineState.memRead_past (Nat.not_lt.1 h)] at hb
      have := ih (i + 1)
      simp only [List.length_cons]
      omega

/-- Past a byte that is not there, none is. -/
theorem EngineState.memRead_none_of_le {e : EngineState} {i j : Nat} (h : e.memRead i = none) (hij : i ≤ j) :
    e.memRead j = none := by
  unfold EngineState.memRead at *
  split at h
  · simp [Option.map_eq_none_iff.1 h]
  · next hi => exact if_neg (by omega)

/-- The bytes read from an index on are the score's, in order, each at its own place. -/
theorem EngineState.getElem?_readBytes (e : EngineState) (i n j : Nat) :
    (e.readBytes i n)[j]? = if j < n then e.memRead (i + j) else none := by
  induction n generalizing i j with
  | zero => simp [EngineState.readBytes]
  | succ n ih =>
    unfold EngineState.readBytes
    cases h : e.memRead i with
    | none => simp [EngineState.memRead_none_of_le h (Nat.le_add_right i j)]
    | some b =>
      cases j with
      | zero => simp [h]
      | succ j => simp [ih, show i + 1 + j = i + (j + 1) by omega]

theorem EngineState.readBytes_congr {e f : EngineState} (h : f.score = e.score) (hl : f.scoreLen = e.scoreLen)
    (i n : Nat) : f.readBytes i n = e.readBytes i n := by
  induction n generalizing i with
  | zero => rfl
  | succ n ih => simp only [EngineState.readBytes, EngineState.memRead_congr h hl, ih]

end Sys2Proof.Machine
end

