-- ==== Sys2Proof/Laws/Step.lean ====
section
/-! SUPPORT. What a record, a decode loop, a Tick and a step can do, said once each. -/

namespace Sys2Proof.Machine

/-- The effect of a legal record on the engine, the cursor already past it (R91 to R94). -/
def commandEffect (c : Config) (i : Instr) (e : EngineState) : EngineState :=
  match i with
  | .setChannelPitch n p => e.onChannel n.toNat (Channel.startTone (halfPeriodFor c p))
  | .silenceChannel n => e.onChannel n.toNat Channel.silence
  | .advanceTime t => e.loadDelay (scaleDelay e.speedScale t)
  | .endOfScore => e.halt
  | .reservedLow _ => e
  | .reservedMid _ => e
  | .reservedHigh _ => e

/-- A legal record moves the cursor past itself and takes its effect. -/
theorem exec_legal {i : Instr} {s : State} (h : i.legal s.cfg = true) :
    exec i s = .next (s.withEng (commandEffect s.cfg i (s.eng.advanceCursor (encode i).length))) := by
  cases i <;> simp_all [Instr.legal, exec, execSetChannelPitch, execSilenceChannel, execAdvanceTime, execEndOfScore,
    runRecord, channelExists, pitchExists, commandEffect, encode]

/-- An illegal record raises DecodeError. -/
theorem exec_illegal {i : Instr} {s : State} (h : i.legal s.cfg = false) :
    exec i s = .next s.raiseDecodeError := by
  cases i <;> simp_all [Instr.legal, exec, execSetChannelPitch, execSilenceChannel, execReservedLow, execReservedMid,
    execReservedHigh, runRecord, channelExists, pitchExists]

/-- Everything executing a record can do. -/
theorem exec_cases (i : Instr) (s : State) :
    (i.legal s.cfg = true ∧
      exec i s = .next (s.withEng (commandEffect s.cfg i (s.eng.advanceCursor (encode i).length)))) ∨
    (i.legal s.cfg = false ∧ exec i s = .next s.raiseDecodeError) := by
  cases h : i.legal s.cfg with
  | true => exact .inl ⟨rfl, exec_legal h⟩
  | false => exact .inr ⟨rfl, exec_illegal h⟩

/-- Which records end the decode loop: the illegal ones, EndOfScore, and an AdvanceTime that leaves a delay. -/
theorem recordEndsLoop_iff (i : Instr) (t : State) :
    recordEndsLoop i t = true ↔
      i.legal t.cfg = false ∨ i = .endOfScore ∨ (∃ n, i = .advanceTime n) ∧ t.eng.eventDelay ≠ 0 := by
  cases i <;> simp [recordEndsLoop, Instr.legal, channelExists, pitchExists, imp_iff_not_or]

/-- Everything one pass of the decode loop can do: DecodeError, or a legal record with its effect. -/
theorem recordStep_cases (s : State) :
    (recordStep s = .next s.raiseDecodeError ∧ passEndsLoop s s.raiseDecodeError = true) ∨
    ∃ i rest, decode s.eng.recordBytes = .ok (i, rest) ∧ i.legal s.cfg = true ∧
      recordStep s = .next (s.withEng (commandEffect s.cfg i (s.eng.advanceCursor (encode i).length))) := by
  cases h : decode s.eng.recordBytes with
  | error r => exact .inl (by simp [recordStep, passEndsLoop, fetchRecord, h])
  | ok v =>
    obtain ⟨i, rest⟩ := v
    rcases exec_cases i s with ⟨hl, he⟩ | ⟨hl, he⟩
    · exact .inr ⟨i, rest, rfl, hl, by simp [recordStep, fetchRecord, h, he]⟩
    · refine .inl ⟨by simp [recordStep, fetchRecord, h, he], ?_⟩
      simp [passEndsLoop, fetchRecord, h, recordEndsLoop_iff, hl]

/-- A pass always answers a next state. -/
theorem recordStep_next (s : State) : ∃ t, recordStep s = .next t := by
  rcases recordStep_cases s with ⟨h, -⟩ | ⟨i, _, -, -, h⟩
  · exact ⟨_, h⟩
  · exact ⟨_, h⟩

/-- What every pass keeps, the decode loop keeps. -/
theorem decodeLoop_keeps {P : State → Prop} (hp : ∀ s t, P s → recordStep s = .next t → P t) {n : Nat} {s t : State}
    (hs : P s) (h : decodeLoop n s = .next t) : P t := by
  induction n generalizing s with
  | zero => simp [decodeLoop] at h
  | succ n ih =>
    obtain ⟨u, hu⟩ := recordStep_next s
    simp only [decodeLoop, hu] at h
    split at h
    · cases h; exact hp s t hs hu
    · exact ih (hp s u hs hu) h

/-- A decode loop never faults, and is refused only for want of passes. -/
theorem decodeLoop_outcome (n : Nat) (s : State) :
    (∃ t, decodeLoop n s = .next t) ∨ decodeLoop n s = .refused .tickOverrun := by
  induction n generalizing s with
  | zero => exact .inr rfl
  | succ n ih =>
    obtain ⟨u, hu⟩ := recordStep_next s
    simp only [decodeLoop, hu]
    split
    · exact .inl ⟨u, rfl⟩
    · exact ih u

/-- Channel service succeeds exactly when no active channel's counter is 0. -/
theorem EngineState.serviceChannels_cases (e : EngineState) :
    (e.serviceChannels = none ∧ ∃ k ∈ e.chans, k.overdue = true) ∨
    (e.serviceChannels = some { e with chans := e.chans.map Channel.service } ∧
      ∀ k ∈ e.chans, k.overdue = false) := by
  unfold EngineState.serviceChannels
  split
  · next h => exact .inl ⟨rfl, by simpa using h⟩
  · next h => exact .inr ⟨rfl, by simpa using h⟩

/-- Everything a Tick can do: the fault of R182, a countdown, or a decode loop. -/
theorem tick_cases (s : State) :
    (tick s = .fault .invariantViolation ∧ ∃ k ∈ s.eng.chans, k.overdue = true) ∨
    ∃ t, t = s.withEng { s.eng with
          chans := s.eng.chans.map Channel.service, eventDelay := countdown s.eng.eventDelay } ∧
      (∀ k ∈ s.eng.chans, k.overdue = false) ∧
      ((t.eng.eventDelay ≠ 0 ∧ tick s = .next t) ∨
        (t.eng.eventDelay = 0 ∧ tick s = decodeLoop (passesAllowed t) t)) := by
  rcases s.eng.serviceChannels_cases with ⟨h, hk⟩ | ⟨h, hk⟩
  · exact .inl ⟨by simp [tick, h], hk⟩
  · refine .inr ⟨_, rfl, hk, ?_⟩
    by_cases hd : countdown s.eng.eventDelay = 0
    · exact .inr ⟨hd, by simp only [tick, h]; exact if_pos hd⟩
    · exact .inl ⟨hd, by simp only [tick, h]; exact if_neg hd⟩

/-- Everything a step can do. -/
theorem step_cases (s : State) :
    (s.eng.playbackState = 3#2 ∧ step s = .fault .invariantViolation) ∨
    (s.eng.playbackState ≠ 3#2 ∧
      ((∃ rest, (s.inputs = [] ∧ rest = [] ∨ s.inputs = .tick :: rest) ∧
          step s = timerFires (s.withInputs rest)) ∨
        ∃ op rest, s.inputs = .host op :: rest ∧ step s = hostOp op (s.withInputs rest))) := by
  by_cases h : s.eng.playbackState = 3#2
  · exact .inl ⟨h, by simp [step, agentStep, EngineState.stateIllegal, h]⟩
  · refine .inr ⟨h, ?_⟩
    have hs : s.eng.stateIllegal = false := by simp [EngineState.stateIllegal, h]
    cases hi : s.inputs with
    | nil =>
      refine .inl ⟨[], .inl ⟨rfl, rfl⟩, ?_⟩
      have : s.withInputs [] = s := by cases s; simp_all [State.withInputs]
      simp [step, agentStep, hs, hi, this]
    | cons i rest =>
      cases i with
      | tick => exact .inl ⟨rest, .inr rfl, by simp [step, agentStep, hs, hi]⟩
      | host op => exact .inr ⟨op, rest, rfl, by simp [step, agentStep, hs, hi]⟩

end Sys2Proof.Machine
end

