-- ==== Sys2Proof/Laws/Ops.lean ====
section
/-! SUPPORT. The shared operations over the score, the channels, the countdown, the tempo and the host interface: what each
one can do, said once. -/

namespace Sys2Proof.Machine

/-! ### The score -/

/-- At the end of the score no byte is read (R51). -/
theorem EngineState.recordBytes_past {e : EngineState} (h : e.scoreLen ≤ e.cursor) : e.recordBytes = [] := by
  simp [EngineState.recordBytes, maxRecordBytes, EngineState.readBytes, EngineState.memRead_past h]

/-- A started playback reads the buffer it was given. -/
theorem EngineState.memRead_startPlayback (e : EngineState) (bs : List Byte) (i : Nat) :
    (e.startPlayback bs).memRead i = bs[i]? := by
  simp only [EngineState.memRead, EngineState.startPlayback_scoreLen, EngineState.startPlayback_score, Option.map_some,
    Memory.read_ofBytes]
  split
  · next h => simp [List.getD_eq_getElem?_getD, h]
  · next h => simp [List.getElem?_eq_none (Nat.not_lt.1 h)]

/-! ### Channels -/

/-- An operation on one channel, seen at every channel. -/
theorem getElem?_modify_of_some {l : List Channel} {c n : Nat} {k : Channel} {f : Channel → Channel}
    (h : l[c]? = some k) : (l.modify n f)[c]? = some (if c = n then f k else k) := by
  simp only [List.getElem?_modify, h]
  by_cases hc : c = n <;> simp [hc, eq_comm]

/-- A channel after an operation on one channel is an old one, or the operation's result on an old one. -/
theorem mem_modify {l : List Channel} {n : Nat} {f : Channel → Channel} {k : Channel} (h : k ∈ l.modify n f) :
    k ∈ l ∨ ∃ j ∈ l, k = f j := by
  obtain ⟨c, hc⟩ := List.mem_iff_getElem?.1 h
  rw [List.getElem?_modify] at hc
  cases hl : l[c]? with
  | none => simp [hl] at hc
  | some j =>
    have hj := List.mem_of_getElem? hl
    simp [hl] at hc
    split at hc
    · exact .inr ⟨j, hj, hc.symm⟩
    · exact .inl (hc ▸ hj)

theorem Channel.silence_eq (k : Channel) : k.silence = { k with active := false, pin := false } := rfl

/-- Silencing twice is silencing once (S8). -/
theorem Channel.silence_silence (k : Channel) : k.silence.silence = k.silence := rfl

/-- Service of an inactive channel does nothing (R122). -/
theorem Channel.service_inactive {k : Channel} (h : k.active = false) : k.service = k := by
  simp [Channel.service, h]

/-- Service of an active channel whose counter is 2 or more counts down. -/
theorem Channel.service_counts {k : Channel} (h : k.active = true) (h2 : 2 ≤ k.ticksRemaining.toNat) :
    k.service = { k with ticksRemaining := k.ticksRemaining - 1 } := by
  have hz : k.ticksRemaining - 1 ≠ 0 := fun hh => by bv_omega
  simp only [Channel.service, h, if_true, Channel.countDown]
  exact if_neg hz

/-- Service of an active channel whose counter is 1 toggles and reloads. -/
theorem Channel.service_toggles {k : Channel} (h : k.active = true) (h1 : k.ticksRemaining.toNat = 1) :
    k.service = { k with ticksRemaining := k.halfPeriodTicks, pin := !k.pin } := by
  have hz : k.ticksRemaining - 1 = 0 := by bv_omega
  simp only [Channel.service, h, if_true, Channel.countDown]
  exact if_pos hz

/-- Service keeps whether the channel sounds, and its half-period. -/
theorem Channel.service_keeps (k : Channel) :
    k.service.active = k.active ∧ k.service.halfPeriodTicks = k.halfPeriodTicks := by
  unfold Channel.service Channel.countDown
  split <;> [split; skip] <;> simp [Channel.toggle, *]

/-- A channel that is not overdue can be serviced. -/
theorem Channel.overdue_eq_false {k : Channel} (h : k.active = true → k.ticksRemaining ≠ 0) : k.overdue = false := by
  cases ha : k.active <;> simp_all [Channel.overdue]

/-! ### The countdown and the tempo -/

theorem countdown_of_two_le {d : U32} (h : 2 ≤ d.toNat) : countdown d ≠ 0 ∧ (countdown d).toNat + 1 = d.toNat := by
  unfold countdown
  split
  · next hd => simp [hd] at h
  · exact ⟨fun hh => by bv_omega, by bv_omega⟩

theorem countdown_le (d : U32) : countdown d ≤ d := by
  unfold countdown
  split
  · exact BitVec.le_refl _
  · bv_omega

/-- `ScaleDelay` as a number: nothing is cut off (R147). -/
theorem toNat_scaleDelay (scale : U32) (t : BitVec 16) :
    (scaleDelay scale t).toNat = (t.toNat * scale.toNat + 32768) / 65536 := by
  have h1 := t.isLt
  have h2 := scale.isLt
  have : t.toNat * scale.toNat ≤ 65535 * scale.toNat := Nat.mul_le_mul_right _ (by omega)
  simp only [scaleDelay, BitVec.toNat_ofNat, Nat.shiftRight_eq_div_pow]
  rw [Nat.mod_eq_of_lt]
  omega

/-- The tempo factor as a number (R31). -/
theorem toNat_speedScaleFor (percent : Nat) : (speedScaleFor percent).toNat = 6553600 / percent := by
  have := Nat.div_le_self 6553600 percent
  simp only [speedScaleFor, BitVec.toNat_ofNat]
  exact Nat.mod_eq_of_lt (by omega)

/-! ### Host operations -/

/-- Everything a host operation that answers can do to the engine: nothing, or the effect of one accepted operation. -/
theorem hostOp_cases {op : HostOp} {s t : State} (h : hostOp op s = .next t) :
    t.cfg = s.cfg ∧ t.inputs = s.inputs ∧
    (t.eng = s.eng ∨
      (∃ bytes, op = .playScore (some bytes) ∧ s.eng.isPlaying = false ∧ bytes.length ≤ 2 ^ s.cfg.addrBits ∧
        t.eng = s.eng.startPlayback bytes ∧ t.result = some (.code .ok)) ∨
      (op = .stopScore ∧ t.eng = s.eng.stopPlayback ∧ t.result = some (.code .ok)) ∨
      (∃ percent, op = .setSpeed percent ∧ 1 ≤ percent ∧ percent ≤ 1000 ∧ t.eng = s.eng.writeSpeed percent ∧
        t.result = some (.code .ok)) ∨
      (op = .teardown ∧ t.eng = s.eng.tearDown ∧ t.result = some (.code .ok))) := by
  cases op with
  | playScore buf =>
    simp only [hostOp, playScore] at h
    split at h
    · cases h; simp
    · next hp =>
      split at h
      · cases h; simp
      · next bytes =>
        split at h
        · next hl => cases h; exact ⟨rfl, rfl, .inr (.inl ⟨bytes, rfl, by simpa using hp, hl, rfl, rfl⟩)⟩
        · cases h
  | stopScore => cases h; exact ⟨rfl, rfl, .inr (.inr (.inl ⟨rfl, rfl, rfl⟩))⟩
  | setSpeed percent =>
    simp only [hostOp, setSpeed] at h
    split at h
    · next hp =>
      cases h
      simp [speedAccepted] at hp
      exact ⟨rfl, rfl, .inr (.inr (.inr (.inl ⟨percent, rfl, hp.1, hp.2, rfl, rfl⟩)))⟩
    · cases h; simp
  | isPlaying => cases h; simp
  | status => cases h; simp
  | teardown => cases h; exact ⟨rfl, rfl, .inr (.inr (.inr (.inr ⟨rfl, rfl, rfl⟩)))⟩

end Sys2Proof.Machine
end

