-- ==== Sys2Proof/Laws/PerInstr.lean ====
section
/-! SUPPORT. Per-instruction families (LAWS.json). RecordLength: an encodable instruction has 1 to 3 bytes, and its length is
the one its first byte gives (R71); a reserved byte stands alone. -/

namespace Sys2Proof.Laws.RecordLength

/-- The length of the record is the one R71 gives for its first byte. -/
def Statement (i : Instr) : Prop :=
  i.encodable = true →
    ∃ b0 rest, encode i = b0 :: rest ∧ (recordLength b0).getD 1 = (encode i).length ∧
      (recordLength b0 = none → rest = []) ∧ (encode i).length ≤ maxRecordBytes

theorem setChannelPitch (n : BitVec 4) (p : Byte) : Statement (.setChannelPitch n p) := fun _ =>
  ⟨0x0#4 ++ n, [p], rfl, by simp [recordLength, highNibble_append, encode], by
    simp [recordLength, highNibble_append], by simp [encode, maxRecordBytes]⟩

theorem silenceChannel (n : BitVec 4) : Statement (.silenceChannel n) := fun _ =>
  ⟨0x8#4 ++ n, [], rfl, by simp [recordLength, highNibble_append, encode], fun _ => rfl, by
    simp [encode, maxRecordBytes]⟩

theorem advanceTime (t : BitVec 16) : Statement (.advanceTime t) := fun _ =>
  ⟨0xF0#8, [countLow t, countHigh t], rfl, by simp [show recordLength 0xF0#8 = some 3 by decide, encode], by
    simp [show recordLength 0xF0#8 = some 3 by decide], by simp [encode, maxRecordBytes]⟩

theorem endOfScore : Statement .endOfScore := fun _ =>
  ⟨0xFF#8, [], rfl, by decide, fun _ => rfl, by decide⟩

/-- A reserved byte has no length of its own (R71, R77). -/
theorem recordLength_reserved {b : Byte}
    (h : Instr.encodable (.reservedLow b) ∨ Instr.encodable (.reservedMid b) ∨ Instr.encodable (.reservedHigh b)) :
    recordLength b = none := by
  obtain ⟨h0, h8, hF0, hFF⟩ := highNibble_reserved b h
  simp [recordLength, h0, h8, hF0, hFF]

theorem reservedLow (b : Byte) : Statement (.reservedLow b) := fun h =>
  ⟨b, [], rfl, by simp [recordLength_reserved (.inl h), encode], fun _ => rfl, by simp [encode, maxRecordBytes]⟩

theorem reservedMid (b : Byte) : Statement (.reservedMid b) := fun h =>
  ⟨b, [], rfl, by simp [recordLength_reserved (.inr (.inl h)), encode], fun _ => rfl, by
    simp [encode, maxRecordBytes]⟩

theorem reservedHigh (b : Byte) : Statement (.reservedHigh b) := fun h =>
  ⟨b, [], rfl, by simp [recordLength_reserved (.inr (.inr h)), encode], fun _ => rfl, by
    simp [encode, maxRecordBytes]⟩

end Sys2Proof.Laws.RecordLength
end

