-- ==== Sys2Proof/Laws/Run.lean ====
section
/-! SUPPORT. Runs of steps, one step at a time. -/

namespace Sys2Proof.Machine

theorem runSteps_zero (s : State) : runSteps 0 s = .next s := rfl

/-- A run that begins with a step that answers is the run from its answer. -/
theorem runSteps_next {n : Nat} {s t : State} (h : step s = .next t) : runSteps (n + 1) s = runSteps n t := by
  have hc : Sys2Proof.core.step s = Host.Outcome.next t := h
  show Host.Core.run Sys2Proof.core (n + 1) s = _
  simp only [Host.Core.run, hc]

/-- A run that answers begins with a step that answers. -/
theorem runSteps_inv {n : Nat} {s u : State} (h : runSteps (n + 1) s = .next u) :
    ∃ t, step s = .next t ∧ runSteps n t = .next u := by
  cases hs : step s with
  | next t => exact ⟨t, rfl, by rw [← runSteps_next hs]; exact h⟩
  | fault f =>
    have hc : Sys2Proof.core.step s = Host.Outcome.fault f := hs
    have h' : Host.Core.run Sys2Proof.core (n + 1) s = .next u := h
    simp [Host.Core.run, hc] at h'
  | refused r =>
    have hc : Sys2Proof.core.step s = Host.Outcome.refused r := hs
    have h' : Host.Core.run Sys2Proof.core (n + 1) s = .next u := h
    simp [Host.Core.run, hc] at h'

/-- Runs compose. -/
theorem runSteps_add {n m : Nat} {s t : State} (h : runSteps n s = .next t) :
    runSteps (n + m) s = runSteps m t := by
  induction n generalizing s with
  | zero =>
    cases h
    simp
  | succ n ih =>
    obtain ⟨u, hu, hr⟩ := runSteps_inv h
    rw [show n + 1 + m = (n + m) + 1 by omega, runSteps_next hu]
    exact ih hr

/-- What every step keeps holds along every run. -/
theorem runSteps_keeps {P : State → Prop} (hp : ∀ s t, P s → step s = .next t → P t) {n : Nat} {s t : State}
    (hs : P s) (h : runSteps n s = .next t) : P t := by
  induction n generalizing s with
  | zero =>
    cases h
    exact hs
  | succ n ih =>
    obtain ⟨u, hu, hr⟩ := runSteps_inv h
    exact ih (hp s u hs hu) hr

end Sys2Proof.Machine
end

