-- ==== Sys2Proof/Tests/Slice0.lean ====
section
/-! SUPPORT. Tests of single steps against the vectors of 95_test_vectors.md (each names its section), the smoke tests of
the well-formedness checks, and a witness for the hypotheses of every statement. -/

namespace Sys2Proof.Tests

open Sys2Proof Sys2Proof.Machine

/-! ### Small states -/

/-- The spec's test configuration TC1 (95_test_vectors.md section 0). -/
def tc1 : Config := { Config.tc16 with maxChans := 4, pinMap := List.range 4 }

/-- A channel written `active, halfPeriodTicks, ticksRemaining` with a pin, as in the spec's vectors. -/
def chan (a : Bool) (hp tr : U32) (pin : Bool) : Channel := ⟨a, hp, tr, pin⟩

/-- TC1, Playing, with the given channels 0 and 1, score, cursor and countdown. -/
def playingAt (c0 c1 : Channel) (bytes : List Byte) (cursor : Nat) (delay : U32) : State :=
  { State.resetWith tc1 with
    eng := { (EngineState.reset tc1).startPlayback bytes with
      chans := [c0, c1, Channel.reset, Channel.reset], cursor := cursor, eventDelay := delay } }

/-- What a test looks at in a next state; none where the step stops. -/
def look {α : Type} (r : Result) (f : EngineState → α) : Option α :=
  match r with
  | .next t => some (f t.eng)
  | .fault _ => none
  | .refused _ => none

/-- What the host gets back in a next state. -/
def answerOf (r : Result) : Option HostResult :=
  match r with
  | .next t => t.result
  | .fault _ => none
  | .refused _ => none

/-- The step stops with InvariantViolation. -/
def faults (r : Result) : Bool :=
  match r with
  | .next _ => false
  | .fault .invariantViolation => true
  | .refused _ => false

/-- Playing with channel 0 sounding: program P1 after its first Tick (95_test_vectors.md section 3). -/
def demo : State :=
  playingAt (chan true 4 4 false) Channel.reset [0x00, 0x01, 0xF0, 0x06, 0x00, 0x80, 0xFF] 5 6

/-- Playing, a Tick due, `bytes` at the cursor. -/
def due (bytes : List Byte) : State := playingAt (chan true 4 2 true) Channel.reset bytes 0 0

theorem demo_inv : EngineInv demo :=
  ⟨by decide, by decide, by decide, by decide, by decide, by decide, by decide, by decide, by decide, by decide,
    by decide, by decide⟩

theorem reset_inv : EngineInv (State.resetWith tc1) :=
  ⟨by decide, by decide, by decide, by decide, by decide, by decide, by decide, by decide, by decide, by decide,
    by decide, by decide⟩

/-! ### Well-formedness: each check refuses an ill-formed term -/

theorem test_wf_instr_refuses : Instr.encodable (.reservedLow 0x80) = false ∧
    Instr.encodable (.reservedMid 0xF0) = false ∧ Instr.encodable (.reservedHigh 0xFF) = false := by decide

theorem test_legal_refuses : Instr.legal tc1 (.setChannelPitch 4 0) = false ∧
    Instr.legal tc1 (.setChannelPitch 0 4) = false ∧ Instr.legal tc1 (.silenceChannel 4) = false ∧
    Instr.legal tc1 (.reservedLow 0x10) = false := by decide

theorem test_wf_chans_refuses : ¬ Config.chansOk { tc1 with maxChans := 0 } ∧
    ¬ Config.chansOk { tc1 with maxChans := 17 } := by decide

theorem test_wf_pitches_refuses : ¬ Config.pitchesOk { tc1 with periodTable := [] } ∧
    ¬ Config.pitchesOk { tc1 with periodTable := List.replicate 257 1 } :=
  ⟨by decide, fun h => absurd h.2 (by rw [Config.numPitches, List.length_replicate]; decide)⟩

/-- Section 2.2: `[2, 1, 0]` is refused. -/
theorem test_wf_entries_refuses : ¬ Config.entriesOk { tc1 with periodTable := [2, 1, 0] } := by decide

/-- Section 2.2: `[5, 5, 3]` and `[3, 4]` are refused. -/
theorem test_wf_decreasing_refuses : ¬ Config.decreasing { tc1 with periodTable := [5, 5, 3] } ∧
    ¬ Config.decreasing { tc1 with periodTable := [3, 4] } := by decide

theorem test_wf_pins_refuses : ¬ Config.pinsOk { tc1 with pinMap := [0, 1, 2, 1] } ∧
    ¬ Config.pinsOk { tc1 with pinMap := [0, 1, 2] } := by decide

/-- TC1, TC16 and the one-entry table `[1]` of section 2.2 are accepted. -/
theorem test_wf_accepts : tc1.wf ∧ Config.tc16.wf ∧ Config.wf { tc1 with periodTable := [1] } := by decide

/-! ### Decoding (section 2.1, R82) -/

theorem test_decode_setChannelPitch : decode [0b00000011#8, 0b01000101#8] = .ok (.setChannelPitch 3 0x45, []) := rfl

theorem test_decode_silenceChannel : decode [0b10001010#8] = .ok (.silenceChannel 10, []) := rfl

theorem test_decode_advanceTime :
    decode [0b11110000#8, 0b00110100#8, 0b00010010#8] = .ok (.advanceTime 4660, []) := rfl

theorem test_decode_endOfScore : decode [0b11111111#8, 0#8] = .ok (.endOfScore, [0]) := rfl

theorem test_decode_reserved : decode [0b00010000#8] = .ok (.reservedLow 0x10, []) ∧
    decode [0b10010000#8] = .ok (.reservedMid 0x90, []) ∧
    decode [0b11111110#8] = .ok (.reservedHigh 0xFE, []) := ⟨rfl, rfl, rfl⟩

theorem test_decode_truncated : decode [0x00#8] = .error .truncatedRecord ∧
    decode [0xF0#8, 0x01#8] = .error .truncatedRecord ∧ decode [] = .error .missingEndMarker := ⟨rfl, rfl, rfl⟩

theorem test_decodeOne_tc1 : decodeOne tc1 [0x03, 0x03] = .ok (.setChannelPitch 3 3, 2) ∧
    decodeOne tc1 [0x04, 0x00] = .error .channelOutOfRange ∧ decodeOne tc1 [0x00, 0x04] = .error .pitchOutOfRange ∧
    decodeOne tc1 [0x84] = .error .channelOutOfRange ∧ decodeOne tc1 [0xEF] = .error .reservedOpcode ∧
    decodeOne Config.tc16 [0x8F] = .ok (.silenceChannel 15, 1) := ⟨rfl, rfl, rfl, rfl, rfl, rfl⟩

theorem test_decodeTableWord : decodeTableWord 16 0x4503 = some (.setChannelPitch 3 0x45) ∧
    decodeTableWord 8 0x80 = some (.silenceChannel 0) ∧ decodeTableWord 24 0x1234F0 = some (.advanceTime 0x1234) ∧
    decodeTableWord 8 0xFF = some .endOfScore ∧ decodeTableWord 8 0x7F = some (.reservedLow 0x7F) := by decide

/-! ### The commands -/

/-- Section 2.3, row 1: the cursor moves by 2 and the pin stays low. -/
theorem test_setChannelPitch_fresh :
    look (exec (.setChannelPitch 1 2) (due [])) (fun e => (e.chans[1]?, e.cursor)) =
      some (some (chan true 3 3 false), 2) := by decide

/-- Section 2.3, row 3: re-pitch keeps the level and restarts the counter. -/
theorem test_setChannelPitch_repitch :
    look (exec (.setChannelPitch 0 3) (playingAt (chan true 4 1 true) Channel.reset [] 0 0)) (fun e => e.chans[0]?) =
      some (some (chan true 2 2 true)) := by decide

/-- Section 2.4, row 1. -/
theorem test_silenceChannel :
    look (exec (.silenceChannel 0) (due [])) (fun e => (e.chans[0]?, e.cursor)) =
      some (some (chan false 4 2 false), 1) := by decide

/-- Section 2.1: channel 4 does not exist in TC1; section 2.10: `errorStatus` 2 and the cursor at the record. -/
theorem test_silenceChannel_out_of_range :
    look (exec (.silenceChannel 4) (due [])) (fun e => (e.errorStatus, e.cursor, e.playbackState)) =
      some (2, 0, stopped) := by decide

/-- Section 2.5: at speed 150, `ScaleDelay(300) = 200`. -/
theorem test_advanceTime : look (exec (.advanceTime 300)
      { due [] with eng := (due []).eng.writeSpeed 150 }) (fun e => (e.eventDelay, e.cursor)) = some (200, 3) := by
  decide

/-- Section 2.5: the largest delay, and a truncated scale. -/
theorem test_scaleDelay_edges : scaleDelay (speedScaleFor 1) 65535 = 6553500 ∧ scaleDelay (speedScaleFor 1000) 5 = 0 ∧
    scaleDelay (speedScaleFor 7) 100 = 1429 ∧ scaleDelay (speedScaleFor 200) 5 = 3 := by decide

/-- Section 2.6, on channel 0. -/
theorem test_endOfScore : look (exec .endOfScore (due [])) (fun e =>
      (e.chans[0]?, e.timerArmed, e.playbackState, e.errorStatus, e.cursor)) =
    some (some (chan false 4 2 false), false, stopped, 0, 1) := by decide

/-- Section 2.10: a reserved opcode. -/
theorem test_reserved : look (exec (.reservedLow 0x10) (due [])) (fun e =>
      (e.chans[0]?, e.timerArmed, e.playbackState, e.errorStatus, e.cursor)) =
    some (some (chan false 4 2 false), false, stopped, 2, 0) := by decide

/-! ### Ticks -/

/-- Section 2.7: toggle and reload on 0, count down on 1. -/
theorem test_service : (chan true 4 1 false).service = chan true 4 4 true ∧
    (chan true 4 2 true).service = chan true 4 1 true ∧ (chan true 1 1 false).service = chan true 1 1 true ∧
    (chan false 4 2 false).service = chan false 4 2 false ∧
    (chan true 4294967295 1 false).service = chan true 4294967295 4294967295 true := by decide

/-- Section 2.7, last row. -/
theorem test_service_overdue : faults (step (playingAt (chan true 4 0 false) Channel.reset [] 0 0)) = true := by decide

/-- Section 2.10: `00 00 00 04` leaves channel 0 at `0, 5, 5` and the cursor at 2. -/
theorem test_tick_good_then_bad :
    look (step (playingAt Channel.reset Channel.reset [0x00, 0x00, 0x00, 0x04] 0 0)) (fun e =>
      (e.chans[0]?, e.cursor, e.errorStatus)) = some (some (chan false 5 5 false), 2, 2) := by decide

/-- P2, Tick 7: service, then a re-pitch in the same Tick. -/
theorem test_tick_service_before_decode :
    look (step (playingAt (chan true 5 5 true) (chan true 2 1 false)
      [0x00, 0x00, 0x01, 0x03, 0xF0, 0x06, 0x00, 0x00, 0x02, 0xF0, 0x03, 0x00, 0x81, 0x80, 0xFF] 7 1))
      (fun e => (e.chans.take 2, e.eventDelay, e.cursor)) =
    some ([chan true 3 3 true, chan true 2 2 true], 3, 12) := by decide

/-- P6: a zero delay goes on to the next record in the same Tick. -/
theorem test_tick_zero_delay : look (step (playingAt Channel.reset Channel.reset [0xF0, 0x00, 0x00, 0xFF] 0 0))
    (fun e => (e.playbackState, e.cursor, e.errorStatus)) = some (stopped, 4, 0) := by decide

/-- MAX_RECORDS_PER_TICK (R193): two records in a Tick are refused where one is allowed. -/
theorem test_tick_overrun : look (tick { due [0x80, 0xFF] with cfg := { tc1 with maxRecordsPerTick := some 1 } })
    (fun e => e.cursor) = none ∧
    look (tick { due [0x80, 0xFF] with cfg := { tc1 with maxRecordsPerTick := some 2 } })
      (fun e => e.cursor) = some 2 := by decide

/-! ### Host operations (section 2.9) -/

theorem test_playScore : look (hostOp (.playScore (some [0xFF])) (State.resetWith tc1)) (fun e =>
      (e.playbackState, e.timerArmed, e.cursor, e.memRead 0)) = some (playing, true, 0, some 0xFF) ∧
    answerOf (hostOp (.playScore none) (State.resetWith tc1)) = some (.code .configError) ∧
    answerOf (hostOp (.playScore none) demo) = some (.code .concurrentStartError) := by decide

theorem test_stopScore : look (hostOp .stopScore demo) (fun e => (e.chans[0]?, e.playbackState, e.cursor)) =
    some (some (chan false 4 4 false), stopped, 0) ∧
    look (hostOp .stopScore (State.resetWith tc1)) (fun e => e.playbackState) = some idle := by decide

theorem test_setSpeed : look (hostOp (.setSpeed 200) demo) (fun e => (e.speedScale, e.eventDelay)) = some (32768, 6) ∧
    look (hostOp (.setSpeed 1000) demo) (fun e => (e.speedPercent, e.speedScale)) = some (1000, 6553) ∧
    answerOf (hostOp (.setSpeed 1001) demo) = some (.code .configError) := by decide

theorem test_reads : answerOf (hostOp .isPlaying demo) = some (.playingFlag true) ∧
    answerOf (hostOp .status demo.raiseDecodeError) = some (.statusValue 2) := by decide

theorem test_teardown : look (hostOp .teardown demo) (fun e => (e.playbackState, e.timerArmed, e.chans[0]?)) =
    some (idle, false, some (chan false 4 4 false)) := by decide

/-- Section 2.2's illustration: A4 (440 Hz) at 20000 Hz has half-period 23 (R111). -/
theorem test_periodEntry : periodEntry 20000 440 1 = 23 ∧ periodEntry 20000 880 1 = 11 := by decide

/-! ### The first instruction after reset: the next step decodes the placed record (log 6) -/

theorem test_place_setChannelPitch : look (step (State.reset.withFetchWord 16 0x0201)) (fun e =>
    (e.chans[1]?, e.eventDelay, e.cursor)) = some (some (chan true 3 3 false), 65535, 5) := by decide

theorem test_place_others :
    look (step (State.reset.withFetchWord 8 0x80)) (fun e => (e.errorStatus, e.cursor)) = some (0, 4) ∧
    look (step (State.reset.withFetchWord 24 0x0007F0)) (fun e => (e.eventDelay, e.cursor)) = some (7, 3) ∧
    look (step (State.reset.withFetchWord 8 0xFF)) (fun e => (e.errorStatus, e.cursor)) = some (0, 1) ∧
    look (step (State.reset.withFetchWord 8 0x10)) (fun e => (e.errorStatus, e.cursor)) = some (2, 0) := by decide

/-! ### Witnesses: for every statement with hypotheses, a state and operands that meet them together -/

theorem witness_RecordLengthIsGivenByFirstByte :
    (recordLength 0x0F = some 2 ∧ recordLength 0x00 = some 2 ∧ recordLength 0x80 = some 1 ∧ recordLength 0x8F = some 1 ∧
      recordLength 0x10 = none ∧ recordLength 0x7F = none ∧ recordLength 0x90 = none ∧ recordLength 0xEF = none ∧
      recordLength 0xF1 = none ∧ recordLength 0xFE = none) ∧
    recordLength 0xF0#8 = some 3 ∧ decode [0xF0#8, 1, 0, 9] = .ok (.advanceTime 1, [9]) ∧
    recordLength 0xFF#8 = some 1 ∧ decode [0xFF#8, 9] = .ok (.endOfScore, [9]) :=
  ⟨by decide, rfl, rfl, rfl, rfl⟩

theorem witness_DecodeOfEncodeIsIdentity : Instr.encodable (.reservedLow 0x10) = true ∧
    Instr.encodable (.reservedLow 0x7F) = true ∧ Instr.encodable (.reservedMid 0x90) = true ∧
    Instr.encodable (.reservedMid 0xEF) = true ∧ Instr.encodable (.reservedHigh 0xF1) = true ∧
    Instr.encodable (.reservedHigh 0xFE) = true ∧ Instr.encodable (.setChannelPitch 15 255) = true := by decide

theorem witness_EncodeOfDecodeIsIdentity : decode [0x03#8, 0x45, 0x80] = .ok (.setChannelPitch 3 0x45, [0x80]) := rfl

theorem witness_ScoreReadsBackTheBufferOfPlayScore :
    ((State.resetWith tc1).eng.isPlaying = false ∧
      ∃ t, hostOp (.playScore (some [0, 0xFF])) (State.resetWith tc1) = .next t) ∧
    (demo.eng.playbackState = playing ∧ ∃ t, step demo = .next t) ∧
    (due []).eng.scoreLen ≤ 0 ∧ 0 = (due []).eng.cursor ∧
    ((due [0xF0, 1]).eng.scoreLen ≤ 2 ∧ (due [0xF0, 1]).eng.memRead (due [0xF0, 1]).eng.cursor = some 0xF0 ∧
      recordLength 0xF0 = some 3 ∧ (due [0xF0, 1]).eng.cursor < 2 ∧ 2 < (due [0xF0, 1]).eng.cursor + 3) :=
  ⟨⟨rfl, _, rfl⟩, ⟨by decide, _, rfl⟩, by decide⟩

theorem witness_TruncatedOrUnterminatedScoreRaisesDecodeError :
    (due []).eng.scoreLen ≤ (due []).eng.cursor ∧
    ((due [0x00]).eng.memRead 0 = some 0 ∧ recordLength 0 = some 2 ∧ (due [0x00]).eng.scoreLen < 0 + 2) ∧
    ((due [0xF0]).eng.memRead 0 = some 0xF0 ∧ recordLength 0xF0 = some 3 ∧ (due [0xF0]).eng.scoreLen < 0 + 3) ∧
    ((due [0xF0, 1]).eng.memRead 0 = some 0xF0 ∧ (due [0xF0, 1]).eng.scoreLen < 0 + 3) := by decide

theorem witness_UnterminatedScore : decode (due [0x80]).eng.recordBytes = .ok (.silenceChannel 0, []) ∧
    Instr.legal (due [0x80]).cfg (.silenceChannel 0) = true ∧
    ∃ t, exec (.silenceChannel 0) (due [0x80]) = .next t ∧ t.eng.scoreLen ≤ t.eng.cursor ∧
      recordEndsLoop (.silenceChannel 0) t = false := ⟨rfl, rfl, _, rfl, by decide, rfl⟩

theorem witness_CommandsLeaveScoreTempoAndConfiguration : ∃ t, exec (.silenceChannel 0) demo = .next t := ⟨_, rfl⟩

theorem witness_SetChannelPitchStartsToneOnItsChannelAlone :
    (3#4).toNat < demo.cfg.maxChans ∧ demo.cfg.periodTable[(3#8).toNat]? = some 2 ∧
      demo.eng.chans[3]? = some Channel.reset := by decide

theorem witness_SilenceChannelSilencesItsChannelAlone :
    (0#4).toNat < demo.cfg.maxChans ∧ demo.eng.chans[0]? = some (chan true 4 4 false) := by decide

theorem witness_EndOfScoreSilencesDisarmsAndStops :
    (due [0xFF, 0x80]).eng.chans[0]? = some (chan true 4 2 true) ∧
      decode (due [0xFF, 0x80]).eng.recordBytes = .ok (.endOfScore, [0x80]) := ⟨rfl, rfl⟩

theorem witness_ReservedOpcodesRaiseDecodeError : (Instr.reservedMid 0x90 = .reservedLow 0x90 ∨
    Instr.reservedMid 0x90 = .reservedMid 0x90 ∨ Instr.reservedMid 0x90 = .reservedHigh 0x90) ∧
    demo.eng.chans[0]? = some (chan true 4 4 false) := by decide

theorem witness_OutOfRangeOperandsRaiseDecodeError :
    demo.cfg.maxChans ≤ (4#4).toNat ∧ demo.cfg.numPitches ≤ (4#8).toNat := by decide

theorem witness_DecodeErrorRunsFailStopAndEndsTheTick :
    decodeOne (due [0x84]).cfg (due [0x84]).eng.recordBytes = .error .channelOutOfRange := rfl

theorem witness_RecordPassAgreesWithDecodeOne :
    decodeOne (due [0xF0]).cfg (due [0xF0]).eng.recordBytes = .error .truncatedRecord ∧
    decodeOne (due [0x03, 0x03]).cfg (due [0x03, 0x03]).eng.recordBytes = .ok (.setChannelPitch 3 3, 2) := ⟨rfl, rfl⟩

theorem witness_StepRunsTheDecodedRecord : ∃ e,
    (due [0x80, 0xFF]).eng.playbackState ≠ 3#2 ∧ (due [0x80, 0xFF]).eng.timerArmed = true ∧
    (due [0x80, 0xFF]).inputs = [] ∧ (due [0x80, 0xFF]).eng.serviceChannels = some e ∧
    (due [0x80, 0xFF]).eng.eventDelay.toNat ≤ 1 ∧
    decode ({ due [0x80, 0xFF] with inputs := [], eng := { e with eventDelay := 0 } } : State).eng.recordBytes =
      .ok (.silenceChannel 0, [0xFF]) ∧
    passesAllowed { due [0x80, 0xFF] with inputs := [], eng := { e with eventDelay := 0 } } = 2 + 1 :=
  ⟨_, by decide, rfl, rfl, rfl, by decide, rfl, rfl⟩

/-- The countdown at its other bound, 1, and the timer firing listed. -/
theorem witness_StepRunsTheDecodedRecord_last : ∃ s e, s = { due [0x80, 0xFF] with
      inputs := [.tick], eng := { (due [0x80, 0xFF]).eng with eventDelay := 1 } } ∧
    s.eng.playbackState ≠ 3#2 ∧ s.eng.timerArmed = true ∧ s.inputs = .tick :: [] ∧
    s.eng.serviceChannels = some e ∧ s.eng.eventDelay.toNat = 1 ∧
    decode ({ s with inputs := [], eng := { e with eventDelay := 0 } } : State).eng.recordBytes =
      .ok (.silenceChannel 0, [0xFF]) ∧
    passesAllowed { s with inputs := [], eng := { e with eventDelay := 0 } } = 2 + 1 :=
  ⟨_, _, rfl, by decide, rfl, rfl, rfl, by decide, rfl, rfl⟩

/-- A due Tick with no record: an empty score (D9) and a truncated record, the countdown at 0 and at 1. -/
theorem witness_StepRunsTheDecodedRecord_no_record :
    ((due []).eng.timerArmed = true ∧ (due []).eng.scoreLen = 0 ∧ (due []).eng.eventDelay.toNat = 0 ∧
      ∃ e, (due []).eng.serviceChannels = some e) ∧
    ∃ s, s = playingAt Channel.reset Channel.reset [0xF0, 1] 0 1 ∧ s.eng.timerArmed = true ∧ s.inputs = [] ∧
      s.eng.eventDelay.toNat = 1 ∧ (∃ e, s.eng.serviceChannels = some e) ∧
      decode s.eng.recordBytes = .error .truncatedRecord :=
  ⟨⟨rfl, rfl, rfl, _, rfl⟩, _, rfl, rfl, rfl, rfl, ⟨_, rfl⟩, rfl⟩

/-- Which records end the loop (R95): a delay of 0 and one of 1, EndOfScore, an illegal record, and a legal one that goes on. -/
theorem witness_StepRunsTheDecodedRecord_ends :
    (decode (due [0xF0, 0, 0]).eng.recordBytes = .ok (.advanceTime 0, []) ∧
      look (exec (.advanceTime 0) (due [0xF0, 0, 0])) (fun e => e.eventDelay) = some 0) ∧
    (decode (due [0xF0, 1, 0]).eng.recordBytes = .ok (.advanceTime 1, []) ∧
      look (exec (.advanceTime 1) (due [0xF0, 1, 0])) (fun e => e.eventDelay) = some 1) ∧
    decode (due [0xFF]).eng.recordBytes = .ok (.endOfScore, []) ∧
    (decode (due [0x84]).eng.recordBytes = .ok (.silenceChannel 4, []) ∧
      Instr.legal (due [0x84]).cfg (.silenceChannel 4) = false) ∧
    (decode (due [0x83]).eng.recordBytes = .ok (.silenceChannel 3, []) ∧
      Instr.legal (due [0x83]).cfg (.silenceChannel 3) = true) :=
  ⟨⟨rfl, by decide⟩, ⟨rfl, by decide⟩, rfl, ⟨rfl, rfl⟩, rfl, rfl⟩

theorem witness_DecodeLoopEndsWithinTheScore : demo.eng.scoreLen - demo.eng.cursor < 3 ∧
    demo.cfg.maxRecordsPerTick = none := by decide

theorem witness_RecordLimitNeverChangesAnEffect : 2 ≤ 5 ∧ (∃ t, decodeLoop 2 (due [0x80, 0xFF]) = .next t) ∧
    ({ demo with cfg := { tc1 with maxRecordsPerTick := some 1 } } : State).cfg.maxRecordsPerTick = some 1 :=
  ⟨by decide, ⟨_, rfl⟩, rfl⟩

theorem witness_CursorOnlyMovesForwardInATick : ∃ t, tick (due [0x80, 0xFF]) = .next t := ⟨_, rfl⟩

theorem witness_ChannelServiceCountsDownAndToggles :
    (∃ f, demo.eng.serviceChannels = some f) ∧ demo.eng.chans[0]? = some (chan true 4 4 false) ∧
    (2 ≤ (chan true 4 4 false).ticksRemaining.toNat ∧ (chan true 4 1 false).ticksRemaining.toNat = 1) ∧
    (∀ k ∈ demo.eng.chans, k.active = true → k.ticksRemaining ≠ 0) ∧ EngineInv demo ∧
    ∃ k ∈ (playingAt (chan true 4 0 false) Channel.reset [] 0 0).eng.chans, k.active = true ∧ k.ticksRemaining = 0 :=
  ⟨⟨_, rfl⟩, rfl, by decide, by decide, demo_inv, by decide⟩

theorem witness_ChannelServiceIsIndependent : ∃ f₁ f₂,
    demo.eng.serviceChannels = some f₁ ∧ (due []).eng.serviceChannels = some f₂ ∧
      demo.eng.chans[1]? = (due []).eng.chans[1]? := ⟨_, _, rfl, rfl, rfl⟩

theorem witness_TickBeforeTheEventOnlyCountsDown :
    ∃ e, demo.eng.serviceChannels = some e ∧ 2 ≤ demo.eng.eventDelay.toNat := ⟨_, rfl, by decide⟩

theorem witness_TickIsDeliveredExactlyWhenArmed :
    (demo.eng.playbackState ≠ 3#2 ∧ demo.eng.timerArmed = true ∧ demo.inputs = []) ∧
    ((State.resetWith tc1).eng.timerArmed = false ∧ (State.resetWith tc1).inputs = []) ∧
    ({ demo with inputs := [.tick] } : State).inputs = .tick :: [] := by decide

theorem witness_TickChangesControlOnlyByStopping : ∃ t, tick (due [0xFF]) = .next t := ⟨_, rfl⟩

theorem witness_CountdownOfDTicksDecodesInTickD : EngineInv demo ∧ demo.eng.playbackState = playing ∧
    demo.inputs = [] ∧ 1 ≤ demo.eng.eventDelay.toNat ∧ 5 < demo.eng.eventDelay.toNat :=
  ⟨demo_inv, by decide, by decide, by decide, by decide⟩

theorem witness_ChannelKeepsItsPhaseOverTicks : EngineInv demo ∧ demo.eng.playbackState = playing ∧
    demo.inputs = [] ∧ demo.eng.chans[0]? = some (chan true 4 4 false) ∧ (chan true 4 4 false).active = true ∧
    (chan true 4 4 false).ticksRemaining = (chan true 4 4 false).halfPeriodTicks ∧ 5 < demo.eng.eventDelay.toNat :=
  ⟨demo_inv, by decide, by decide, by decide, by decide, by decide, by decide⟩

theorem witness_ServiceTogglesFloorDOverHpTimes : (chan true 4 4 false).active = true ∧
    1 ≤ (chan true 4 4 false).halfPeriodTicks.toNat ∧
    (chan true 4 4 false).ticksRemaining = (chan true 4 4 false).halfPeriodTicks := by decide

theorem witness_PlayScoreWhilePlayingIsRejectedUnchanged : demo.eng.playbackState = playing := by decide

theorem witness_PlayScoreStartsPlayback : (State.resetWith tc1).eng.playbackState ≠ playing ∧
    [0xFF#8].length ≤ 2 ^ (State.resetWith tc1).cfg.addrBits := by decide

theorem witness_StopScoreSilencesAndIsIdempotent : demo.eng.chans[0]? = some (chan true 4 4 false) := by decide

theorem witness_SetSpeedWritesTheTempoAlone : (1 ≤ 1 ∧ 1 ≤ 1000) ∧ 1 ≤ 1000 ∧ 1000 ≤ 1000 := by decide

theorem witness_ConfigErrorsAreRejectedUnchanged : 0 = 0 ∧ 1000 < 1001 ∧ (State.resetWith tc1).eng.playbackState ≠ playing ∧
    ¬ Config.wf { tc1 with maxChans := 0 } ∧
    ({ tc1 with pinMap := [0, 1, 2] } : Config).pinMap.length ≠ tc1.maxChans ∧
    ({ tc1 with pinMap := [0, 1, 2, 1] } : Config).pinMap[1]? = some 1 ∧
    ({ tc1 with pinMap := [0, 1, 2, 1] } : Config).pinMap[3]? = some 1 := by decide

theorem witness_IsPlayingReportsTheStateWithoutSideEffects : ∃ t, exec .endOfScore demo = .next t := ⟨_, rfl⟩

theorem witness_StatusReadsDecodeErrorWithoutClearing : ∃ t, hostOp .status demo.raiseDecodeError = .next t := ⟨_, rfl⟩

theorem witness_TeardownGoesToIdle : demo.eng.chans[0]? = some (chan true 4 4 false) := by decide

theorem witness_HostOperationIsOneStep :
    (demo.eng.playbackState ≠ 3#2 ∧ ({ demo with inputs := [.host .status] } : State).inputs = .host .status :: []) ∧
    ({ demo with eng := { demo.eng with playbackState := 3 } } : State).eng.playbackState = 3#2 := by decide

theorem witness_ScaleDelayAtNominalAndDoubleSpeed : (1 ≤ 1 ∧ 1 ≤ 1000) ∧ 1 ≤ 1000 ∧ 1000 ≤ 1000 := by decide

theorem witness_NoStepWritesTheConfiguration : ∃ t, step demo = .next t := ⟨_, rfl⟩

theorem witness_ConstructionGivesTheResetValues : tc1.wf := by decide

theorem witness_EveryStepKeepsTheInvariant : EngineInv demo ∧ ∃ t, step demo = .next t := ⟨demo_inv, _, rfl⟩

theorem witness_InactiveChannelsAreLowInEveryReachableState : tc1.wf ∧
    ∃ t, runSteps 1 { State.resetWith tc1 with inputs := [.host (.playScore (some [0, 0]))] } = .next t :=
  ⟨by decide, _, runSteps_next rfl⟩

theorem witness_StepStopsOnlyWhereDeclared : EngineInv demo := demo_inv

theorem witness_PinRisesOnlyByToggle :
    (∃ t, step (playingAt (chan true 4 1 false) Channel.reset [] 0 2) = .next t ∧
      t.eng.chans[0]? = some (chan true 4 4 true)) ∧
    (playingAt (chan true 4 1 false) Channel.reset [] 0 2).eng.chans[0]? = some (chan true 4 1 false) ∧
    (chan true 4 1 false).pin = false ∧ (chan true 4 4 true).pin = true := ⟨⟨_, rfl, rfl⟩, rfl, rfl, rfl⟩

theorem witness_PlaybackStateMovesOnlyAlongTheTable : EngineInv demo ∧ ∃ t, step demo = .next t :=
  ⟨demo_inv, _, rfl⟩

theorem witness_AfterStopNothingSoundsUntilPlayScore : EngineInv demo ∧
    ∃ t, hostOp .stopScore demo = .next t ∧ noPlayScore t.inputs := ⟨demo_inv, _, rfl, fun _ h => nomatch h⟩

theorem witness_TimerRequestsFollowPlaying : EngineInv (State.resetWith tc1) ∧
    ∃ t, step (State.resetWith tc1) = .next t := ⟨reset_inv, _, rfl⟩

theorem witness_RejectedOperationsChangeNoState :
    (∃ t, hostOp (.setSpeed 0) demo = .next t ∧ t.result = some (.code .configError)) ∧
    (∃ t, hostOp (.playScore none) demo = .next t ∧ t.result = some (.code .concurrentStartError)) ∧
    ResultCode.configError.code = 1#2 ∧ ResultCode.concurrentStartError.code = 3#2 :=
  ⟨⟨_, rfl, rfl⟩, ⟨_, rfl, rfl⟩, rfl, rfl⟩

theorem witness_PeriodTablesStrictlyDecreaseOrAreRefused :
    (tc1.wf ∧ tc1.periodTable[0]? = some 5 ∧ tc1.periodTable[3]? = some 2) ∧
    ({ tc1 with periodTable := [2, 1, 0] } : Config).periodTable[2]? = some 0 ∧
    ({ tc1 with periodTable := [5, 5, 3] } : Config).periodTable[1]? = some 5 ∧
    ({ tc1 with periodTable := [] } : Config).numPitches = 0 ∧ ({ tc1 with maxChans := 0 } : Config).maxChans = 0 ∧
    16 < ({ tc1 with maxChans := 17 } : Config).maxChans := by decide

theorem witness_EveryStepKeepsInactiveChannelsLow :
    (∀ k ∈ demo.eng.chans, k.silentPin) ∧ ∃ t, step demo = .next t := ⟨demo_inv.silent, _, rfl⟩

theorem witness_EveryStepKeepsAStoppedEngineSilent : EngineInv (State.resetWith tc1) ∧
    (State.resetWith tc1).eng.timerArmed = false ∧ noPlayScore (State.resetWith tc1).inputs :=
  ⟨reset_inv, rfl, fun _ h => nomatch h⟩

theorem witness_PeriodTablesStrictlyDecreaseOrAreRefused_accepted : ∃ c : Config, c.maxChans = 1 ∧ c.numPitches = 1 ∧
    (∀ p : Nat, c.periodTable[p]? ≠ some 0#32) ∧
    (∀ (p q : Nat) (hp hq : U32), p < q → c.periodTable[p]? = some hp → c.periodTable[q]? = some hq →
      hq.toNat < hp.toNat) ∧
    c.pinMap.length = c.maxChans ∧
    ∀ (i j : Nat) (line : Nat), i < j → c.pinMap[i]? = some line → c.pinMap[j]? ≠ some line := by
  refine ⟨{ tc1 with maxChans := 1, periodTable := [1], pinMap := [7] }, rfl, rfl, fun p => ?_,
    fun p q hp hq h _ hj => ?_, rfl, fun i j line h _ hj => ?_⟩
  · cases p <;> simp
  · obtain ⟨q, rfl⟩ : ∃ k, q = k + 1 := ⟨q - 1, by omega⟩
    simp at hj
  · obtain ⟨j, rfl⟩ : ∃ k, j = k + 1 := ⟨j - 1, by omega⟩
    simp at hj

end Sys2Proof.Tests
end

section
/-! PROOFS. Silent pins (R24): every operation of the engine keeps an inactive channel's line low. -/

namespace Sys2Proof.Proofs

open Sys2Proof Sys2Proof.Machine

/-! ### One channel -/

theorem silentPin_of_active {k : Channel} (h : k.active = true) : k.silentPin := fun hi => by simp [h] at hi

theorem silentPin_silence (k : Channel) : k.silence.silentPin := fun _ => k.silence_pin

theorem silentPin_clear (k : Channel) : k.clear.silentPin := fun _ => k.clear_pin

theorem silentPin_startTone (hp : U32) (k : Channel) : (k.startTone hp).silentPin :=
  silentPin_of_active (k.startTone_active hp)

/-- Service writes the line of an active channel only, and that channel stays active. -/
theorem silentPin_service {k : Channel} (h : k.silentPin) : k.service.silentPin := by
  cases ha : k.active with
  | false => rwa [Channel.service_inactive ha]
  | true => exact silentPin_of_active (k.service_keeps.1.trans ha)

/-! ### The engine -/

/-- R24 for the whole engine: the line of every inactive channel is low. -/
def PinsSilent (e : EngineState) : Prop := ∀ k ∈ e.chans, k.silentPin

/-- Whether the inactive channels are low depends on the channels alone. -/
theorem PinsSilent.of_chans_eq {e f : EngineState} (he : PinsSilent e) (h : f.chans = e.chans) : PinsSilent f :=
  fun k hk => he k (h ▸ hk)

theorem pinsSilent_of_chans_map {e f : EngineState} {g : Channel → Channel} (h : f.chans = e.chans.map g)
    (hg : ∀ k ∈ e.chans, (g k).silentPin) : PinsSilent f := by
  intro k hk
  obtain ⟨j, hj, rfl⟩ := List.mem_map.1 (h ▸ hk)
  exact hg j hj

theorem pinsSilent_of_chans_silenced {e f : EngineState} (h : f.chans = e.chans.map Channel.silence) :
    PinsSilent f :=
  pinsSilent_of_chans_map h fun k _ => silentPin_silence k

theorem PinsSilent.onChannel {e : EngineState} (he : PinsSilent e) (n : Nat) {g : Channel → Channel}
    (hg : ∀ k, (g k).silentPin) : PinsSilent (e.onChannel n g) := by
  intro k hk
  rcases mem_modify hk with hk | ⟨j, -, rfl⟩
  · exact he k hk
  · exact hg j

theorem pinsSilent_reset (c : Config) : PinsSilent (EngineState.reset c) := by
  intro k hk
  obtain rfl : k = Channel.reset := List.eq_of_mem_replicate hk
  exact fun _ => rfl

/-! ### Records, Ticks and host operations -/

theorem PinsSilent.commandEffect {e : EngineState} (he : PinsSilent e) (c : Config) (i : Instr) :
    PinsSilent (commandEffect c i e) := by
  cases i with
  | setChannelPitch n p => exact he.onChannel _ (silentPin_startTone _)
  | silenceChannel n => exact he.onChannel _ silentPin_silence
  | advanceTime t => exact he.of_chans_eq rfl
  | endOfScore => exact pinsSilent_of_chans_silenced e.halt_chans
  | reservedLow b => exact he
  | reservedMid b => exact he
  | reservedHigh b => exact he

theorem recordStep_keeps_pinsSilent (s t : State) (hs : PinsSilent s.eng) (h : recordStep s = .next t) :
    PinsSilent t.eng := by
  rcases recordStep_cases s with ⟨hr, -⟩ | ⟨i, _, -, -, hr⟩
  · cases hr.symm.trans h
    exact pinsSilent_of_chans_silenced s.eng.failStop_chans
  · cases hr.symm.trans h
    exact (hs.of_chans_eq (s.eng.advanceCursor_chans _)).commandEffect s.cfg i

theorem tick_keeps_pinsSilent {s t : State} (hs : PinsSilent s.eng) (h : tick s = .next t) : PinsSilent t.eng := by
  rcases tick_cases s with ⟨hf, -⟩ | ⟨u, rfl, -, hu⟩
  · cases hf.symm.trans h
  · have serviced := pinsSilent_of_chans_map
      (f := { s.eng with chans := s.eng.chans.map Channel.service, eventDelay := countdown s.eng.eventDelay }) rfl
      fun k hk => silentPin_service (hs k hk)
    rcases hu with ⟨-, hn⟩ | ⟨-, hd⟩
    · cases hn.symm.trans h
      exact serviced
    · exact decodeLoop_keeps (P := fun s => PinsSilent s.eng) recordStep_keeps_pinsSilent serviced (hd.symm.trans h)

theorem timerFires_keeps_pinsSilent {s t : State} (hs : PinsSilent s.eng) (h : timerFires s = .next t) :
    PinsSilent t.eng := by
  unfold timerFires at h
  split at h
  · exact tick_keeps_pinsSilent hs h
  · cases h
    exact hs

theorem hostOp_keeps_pinsSilent {op : HostOp} {s t : State} (hs : PinsSilent s.eng) (h : hostOp op s = .next t) :
    PinsSilent t.eng := by
  obtain ⟨-, -, he | ⟨bytes, -, -, -, he, -⟩ | ⟨-, he, -⟩ | ⟨percent, -, -, -, he, -⟩ | ⟨-, he, -⟩⟩ := hostOp_cases h
    <;> rw [he]
  · exact hs
  · exact pinsSilent_of_chans_map (s.eng.startPlayback_chans bytes) fun k _ => silentPin_clear k
  · exact pinsSilent_of_chans_silenced s.eng.stopPlayback_chans
  · exact hs.of_chans_eq (s.eng.writeSpeed_chans percent)
  · exact pinsSilent_of_chans_silenced s.eng.tearDown_chans

/-- R24, from every state that meets it, reachable or not. -/
theorem step_keeps_pinsSilent (s t : State) (hs : PinsSilent s.eng) (h : step s = .next t) : PinsSilent t.eng := by
  rcases step_cases s with ⟨-, hf⟩ | ⟨-, ⟨rest, -, ht⟩ | ⟨op, rest, -, ho⟩⟩
  · cases hf.symm.trans h
  · exact timerFires_keeps_pinsSilent (s := s.withInputs rest) hs (ht.symm.trans h)
  · exact hostOp_keeps_pinsSilent (s := s.withInputs rest) hs (ho.symm.trans h)

/-! ### The converse of R24 fails -/

/-- The host plays `SetChannelPitch(0, 1); AdvanceTime(1); EndOfScore`, then the timer fires. -/
def toneInputs : List Input :=
  [.host (.playScore (some (encode (.setChannelPitch 0 1) ++ encode (.advanceTime 1) ++ encode .endOfScore))), .tick]

/-- After its first Tick the tone's channel is active, and its line has not been toggled yet. -/
theorem toneInputs_reach_active_low : ∃ t,
    runSteps 2 { State.resetWith Config.tc16 with inputs := toneInputs } = .next t ∧
      ∃ k ∈ t.eng.chans, k.active = true ∧ k.pin = false :=
  ⟨_, (runSteps_next rfl).trans (runSteps_next rfl), by decide⟩

/-- Settles O43: R24 holds at reset and every step keeps it; the converse fails after the first Tick of a tone. -/
theorem inactiveChannelsAreLowInEveryReachableState : Obligations.InactiveChannelsAreLowInEveryReachableState := by
  refine ⟨fun c inputs n t _ h => ?_, ?_⟩
  · exact runSteps_keeps (P := fun s => PinsSilent s.eng) step_keeps_pinsSilent (pinsSilent_reset c) h
  · obtain ⟨t, hrun, hlow⟩ := toneInputs_reach_active_low
    exact ⟨Config.tc16, toneInputs, 2, t, by decide, hrun, hlow⟩

end Sys2Proof.Proofs
end

section
/-! PROOFS. The score buffer (R51): what `playScore` loads, that every step of a playback keeps it, and that a record which
reaches past its end raises DecodeError. -/

namespace Sys2Proof.Proofs

open Sys2Proof Sys2Proof.Machine

/-! ### playScore loads its buffer -/

/-- `playScore` of a buffer while not Playing answers only by starting its playback. -/
theorem hostOp_playScore_starts {bytes : List Byte} {s t : State} (hp : s.eng.isPlaying = false)
    (h : hostOp (.playScore (some bytes)) s = .next t) : t.eng = s.eng.startPlayback bytes := by
  simp only [hostOp, playScore, hp, Bool.false_eq_true, if_false] at h
  split at h
  · cases h
    rfl
  · cases h

/-! ### What keeps the score -/

/-- `f` holds the same score as `e`: the same buffer, of the same length. -/
def SameScore (e f : EngineState) : Prop := f.score = e.score ∧ f.scoreLen = e.scoreLen

theorem SameScore.refl (e : EngineState) : SameScore e e := ⟨rfl, rfl⟩

theorem SameScore.trans {e f g : EngineState} (hf : SameScore e f) (hg : SameScore f g) : SameScore e g :=
  ⟨hg.1.trans hf.1, hg.2.trans hf.2⟩

theorem SameScore.memRead_eq {e f : EngineState} (h : SameScore e f) (i : Nat) : f.memRead i = e.memRead i :=
  EngineState.memRead_congr h.1 h.2 i

/-- No command writes memory (R50). -/
theorem sameScore_commandEffect (c : Config) (i : Instr) (e : EngineState) : SameScore e (commandEffect c i e) := by
  cases i <;> exact ⟨rfl, rfl⟩

theorem recordStep_sameScore {s t : State} (h : recordStep s = .next t) : SameScore s.eng t.eng := by
  rcases recordStep_cases s with ⟨hr, -⟩ | ⟨i, _, -, -, hr⟩
  · cases hr.symm.trans h
    exact ⟨s.eng.failStop_score, s.eng.failStop_scoreLen⟩
  · cases hr.symm.trans h
    exact sameScore_commandEffect s.cfg i (s.eng.advanceCursor (encode i).length)

theorem decodeLoop_sameScore {n : Nat} {s t : State} (h : decodeLoop n s = .next t) : SameScore s.eng t.eng :=
  decodeLoop_keeps (P := fun u => SameScore s.eng u.eng) (fun _ _ hu hr => hu.trans (recordStep_sameScore hr))
    (SameScore.refl s.eng) h

/-- A Tick writes no score (R130). -/
theorem tick_sameScore {s t : State} (h : tick s = .next t) : SameScore s.eng t.eng := by
  rcases tick_cases s with ⟨hf, -⟩ | ⟨u, hu, -, ht⟩
  · cases hf.symm.trans h
  · have serviced : SameScore s.eng u.eng := hu ▸ ⟨rfl, rfl⟩
    rcases ht with ⟨-, hn⟩ | ⟨-, hd⟩
    · cases hn.symm.trans h
      exact serviced
    · exact serviced.trans (decodeLoop_sameScore (hd.symm.trans h))

theorem timerFires_sameScore {s t : State} (h : timerFires s = .next t) : SameScore s.eng t.eng := by
  unfold timerFires at h
  split at h
  · exact tick_sameScore h
  · cases h
    exact SameScore.refl s.eng

/-- `playScore` alone loads a score, and it is rejected while Playing (R173). -/
theorem hostOp_sameScore_of_playing {op : HostOp} {s t : State} (hp : s.eng.isPlaying = true)
    (h : hostOp op s = .next t) : SameScore s.eng t.eng := by
  obtain ⟨-, -, he | ⟨bytes, -, hn, -⟩ | ⟨-, he, -⟩ | ⟨percent, -, -, -, he, -⟩ | ⟨-, he, -⟩⟩ := hostOp_cases h
  · exact he ▸ SameScore.refl s.eng
  · simp [hp] at hn
  · exact he ▸ ⟨s.eng.stopPlayback_score, s.eng.stopPlayback_scoreLen⟩
  · exact he ▸ ⟨s.eng.writeSpeed_score percent, s.eng.writeSpeed_scoreLen percent⟩
  · exact he ▸ ⟨s.eng.tearDown_score, s.eng.tearDown_scoreLen⟩

theorem step_sameScore_of_playing {s t : State} (hp : s.eng.playbackState = playing) (h : step s = .next t) :
    SameScore s.eng t.eng := by
  rcases step_cases s with ⟨-, hf⟩ | ⟨-, ⟨rest, -, ht⟩ | ⟨op, rest, -, ho⟩⟩
  · cases hf.symm.trans h
  · exact timerFires_sameScore (s := s.withInputs rest) (ht.symm.trans h)
  · have hp' : (s.withInputs rest).eng.isPlaying = true := by simp [EngineState.isPlaying, hp]
    exact hostOp_sameScore_of_playing (s := s.withInputs rest) hp' (ho.symm.trans h)

/-! ### Records that reach past the end -/

/-- Fewer bytes than the record's length hold no record (R79). -/
theorem decode_of_length_lt {b0 : Byte} {rest : List Byte} {len : Nat} (hlen : recordLength b0 = some len)
    (hshort : (b0 :: rest).length < len) : decode (b0 :: rest) = .error .truncatedRecord := by
  rw [List.length_cons] at hshort
  unfold recordLength at hlen
  split at hlen
  case isTrue hP => -- format P: its one operand byte is missing
    cases hlen
    obtain rfl : rest = [] := List.length_eq_zero_iff.1 (by omega)
    simp [decode, hP]
  case isFalse hP =>
    split at hlen
    case isTrue => cases hlen; omega -- format S has no operand byte
    case isFalse hS =>
      split at hlen
      case isTrue hT => -- format T: at most one of its two operand bytes is there
        cases hlen
        subst hT
        match rest, hshort with
        | [], _ => rfl
        | [_], _ => rfl
      case isFalse => split at hlen <;> cases hlen; omega -- format E has no operand byte

/-- The decoder's window begins with the byte at the cursor. -/
theorem recordBytes_eq_cons {e : EngineState} {b0 : Byte} (h : e.memRead e.cursor = some b0) :
    ∃ rest, e.recordBytes = b0 :: rest := by
  simp [EngineState.recordBytes, maxRecordBytes, EngineState.readBytes, h]

/-- Where the bytes at the cursor hold no record, the pass raises DecodeError (R90). -/
theorem recordStep_of_decode_error {s : State} {r : DecodeReject} (h : decode s.eng.recordBytes = .error r) :
    recordStep s = .next s.raiseDecodeError := by
  simp [recordStep, fetchRecord, h]

/-- An opcode byte at or past the end of the score (R172 case 1). -/
theorem recordStep_at_end {s : State} (h : s.eng.scoreLen ≤ s.eng.cursor) :
    recordStep s = .next s.raiseDecodeError :=
  recordStep_of_decode_error (r := .missingEndMarker) (by rw [EngineState.recordBytes_past h]; rfl)

/-- An operand byte at or past the end of the score (R172 case 2). -/
theorem recordStep_cut_off {s : State} {b0 : Byte} {len : Nat} (hb : s.eng.memRead s.eng.cursor = some b0)
    (hlen : recordLength b0 = some len) (hend : s.eng.scoreLen < s.eng.cursor + len) :
    recordStep s = .next s.raiseDecodeError := by
  obtain ⟨rest, hrest⟩ := recordBytes_eq_cons hb
  have hpos : s.eng.cursor < s.eng.scoreLen := by
    by_contra hn
    simp [EngineState.memRead_past (Nat.not_lt.1 hn)] at hb
  have hwin : s.eng.recordBytes.length ≤ s.eng.scoreLen - s.eng.cursor := (s.eng.readBytes_length _ _).2
  rw [hrest] at hwin
  exact recordStep_of_decode_error (hrest ▸ decode_of_length_lt hlen (by omega))

/-- Settles O6: `playScore` loads the buffer byte for byte, no step of a playback loads another, and a record that needs a
byte at or past the end raises DecodeError. -/
theorem scoreReadsBackTheBufferOfPlayScore : Obligations.ScoreReadsBackTheBufferOfPlayScore := by
  refine ⟨fun s t bytes hp h i => ?loaded, fun s t hp h i => ?kept, fun s i hi => ⟨?none, ?error⟩⟩
  case loaded => rw [hostOp_playScore_starts hp h, EngineState.memRead_startPlayback]
  case kept => exact (step_sameScore_of_playing hp h).memRead_eq i
  case none => exact EngineState.memRead_past hi
  case error =>
    rintro (rfl | ⟨b0, len, hb, hlen, -, hlt⟩)
    · exact recordStep_at_end hi
    · exact recordStep_cut_off hb hlen (Nat.lt_of_le_of_lt hi hlt)

end Sys2Proof.Proofs
end

section
/-! PROOFS. The encoding (R71 to R75, R79): the four formats field by field, the length of a record, and that a score which
ends inside a record, or with no end marker, raises DecodeError. -/

namespace Sys2Proof.Proofs

open Sys2Proof Sys2Proof.Machine

/-! ### The four formats -/

/-- Format P (R72). -/
theorem decode_formatP (n : BitVec 4) (p : Byte) (rest : List Byte) :
    decode ((0x0#4 ++ n) :: p :: rest) = .ok (.setChannelPitch n p, rest) := by
  simp [decode, highNibble_append, lowNibble_append]

/-- Format S (R73). -/
theorem decode_formatS (n : BitVec 4) (rest : List Byte) :
    decode ((0x8#4 ++ n) :: rest) = .ok (.silenceChannel n, rest) := by
  simp [decode, highNibble_append, lowNibble_append]

/-- Format T (R74). -/
theorem decode_formatT (lo hi : Byte) (rest : List Byte) :
    decode (0xF0#8 :: lo :: hi :: rest) = .ok (.advanceTime (countOfBytes lo hi), rest) := rfl

/-- Format E (R75). -/
theorem decode_formatE (rest : List Byte) : decode (0xFF#8 :: rest) = .ok (.endOfScore, rest) := rfl

/-- Settles O3: one equation per format; the count of format T is read low byte first. -/
theorem formatsDecodeFieldByField : Obligations.FormatsDecodeFieldByField := fun rest =>
  ⟨fun n p => decode_formatP n p rest, fun n => decode_formatS n rest,
    fun lo hi => ⟨countOfBytes lo hi, decode_formatT lo hi rest, toNat_countOfBytes lo hi⟩, decode_formatE rest⟩

/-! ### The length of a record -/

theorem highNibble_eq_zero_iff : ∀ b : Byte, highNibble b = 0x0#4 ↔ b ≤ 0x0F#8 := by decide

theorem highNibble_eq_eight_iff : ∀ b : Byte, highNibble b = 0x8#4 ↔ 0x80#8 ≤ b ∧ b ≤ 0x8F#8 := by decide

theorem recordLength_formatP {b : Byte} (h : b ≤ 0x0F#8) : recordLength b = some 2 := by
  simp [recordLength, (highNibble_eq_zero_iff b).2 h]

theorem recordLength_formatS {b : Byte} (h : 0x80#8 ≤ b ∧ b ≤ 0x8F#8) : recordLength b = some 1 := by
  simp [recordLength, (highNibble_eq_eight_iff b).2 h]

/-- A byte that gives a length is the opcode byte of one of the four formats. -/
theorem recordLength_eq_some_cases {b : Byte} {len : Nat} (h : recordLength b = some len) :
    (∃ n : BitVec 4, b = 0x0#4 ++ n ∧ len = 2) ∨ (∃ n : BitVec 4, b = 0x8#4 ++ n ∧ len = 1) ∨
      (b = 0xF0#8 ∧ len = 3) ∨ (b = 0xFF#8 ∧ len = 1) := by
  have hb := append_nibbles b
  unfold recordLength at h
  split at h
  case isTrue hP => cases h; exact .inl ⟨lowNibble b, by rw [← hP, hb], rfl⟩
  case isFalse =>
    split at h
    case isTrue hS => cases h; exact .inr (.inl ⟨lowNibble b, by rw [← hS, hb], rfl⟩)
    case isFalse =>
      split at h
      case isTrue hT => cases h; exact .inr (.inr (.inl ⟨hT, rfl⟩))
      case isFalse =>
        split at h
        case isTrue hE => cases h; exact .inr (.inr (.inr ⟨hE, rfl⟩))
        case isFalse => cases h

/-- The decoder takes as many bytes as the record is long (R71). -/
theorem decode_tail_eq_drop {b0 : Byte} {rest tail : List Byte} {i : Instr} {len : Nat}
    (hlen : recordLength b0 = some len) (h : decode (b0 :: rest) = .ok (i, tail)) : tail = rest.drop (len - 1) := by
  have hlong : len ≤ rest.length + 1 := by
    by_contra hn
    cases (decode_of_length_lt hlen (Nat.not_le.1 hn)).symm.trans h
  obtain ⟨n, rfl, rfl⟩ | ⟨n, rfl, rfl⟩ | ⟨rfl, rfl⟩ | ⟨rfl, rfl⟩ := recordLength_eq_some_cases hlen
  · obtain _ | ⟨p, rest⟩ := rest
    · simp at hlong
    · cases (decode_formatP n p rest).symm.trans h
      rfl
  · cases (decode_formatS n rest).symm.trans h
    rfl
  · obtain _ | ⟨lo, _ | ⟨hi, rest⟩⟩ := rest
    · simp at hlong
    · simp at hlong
    · cases (decode_formatT lo hi rest).symm.trans h
      rfl
  · cases (decode_formatE rest).symm.trans h
    rfl

/-- Settles O2: the table of R71 row by row, and the decoder takes as many bytes as it says. -/
theorem recordLengthIsGivenByFirstByte : Obligations.RecordLengthIsGivenByFirstByte := by
  refine ⟨fun b0 => ⟨recordLength_formatP, fun hlo hhi => recordLength_formatS ⟨hlo, hhi⟩, ?formatT, ?formatE,
    fun h => ?reserved⟩, fun _ _ _ _ _ hlen h => decode_tail_eq_drop hlen h⟩
  case formatT => rintro rfl; rfl
  case formatE => rintro rfl; rfl
  case reserved => exact Laws.RecordLength.recordLength_reserved (by simpa [Instr.encodable] using h)

/-! ### The end of the score -/

theorem commandEffect_cursor (c : Config) (i : Instr) (e : EngineState) : (commandEffect c i e).cursor = e.cursor := by
  cases i <;> rfl

theorem encode_ne_nil (i : Instr) : encode i ≠ [] := by
  cases i <;> exact List.cons_ne_nil _ _

theorem recordStep_of_decode_ok {s : State} {i : Instr} {tail : List Byte}
    (h : decode s.eng.recordBytes = .ok (i, tail)) : recordStep s = exec i s := by
  simp [recordStep, fetchRecord, h]

theorem passEndsLoop_of_decode_ok {s : State} {i : Instr} {tail : List Byte}
    (h : decode s.eng.recordBytes = .ok (i, tail)) (t : State) : passEndsLoop s t = recordEndsLoop i t := by
  simp [passEndsLoop, fetchRecord, h]

/-- A pass that ends the loop is its last (R95). -/
theorem decodeLoop_succ_of_ends {s t : State} (h : recordStep s = .next t) (he : passEndsLoop s t = true) (m : Nat) :
    decodeLoop (m + 1) s = .next t := by
  simp [decodeLoop, h, he]

/-- After any other pass the loop goes on with one pass fewer to spend (R95). -/
theorem decodeLoop_succ_of_not_ends {s t : State} (h : recordStep s = .next t) (he : passEndsLoop s t = false)
    (m : Nat) : decodeLoop (m + 1) s = decodeLoop m t := by
  simp [decodeLoop, h, he]

/-- Fail-stop ends the loop (R95): a legal record would have moved the cursor, which fail-stop keeps (R96). -/
theorem passEndsLoop_of_raises {s : State} (h : recordStep s = .next s.raiseDecodeError) :
    passEndsLoop s s.raiseDecodeError = true := by
  rcases recordStep_cases s with ⟨-, he⟩ | ⟨i, _, -, -, hr⟩
  · exact he
  · have hst := Host.Outcome.next.inj (hr.symm.trans h)
    have hcur := congrArg (fun u : State => u.eng.cursor) hst
    simp [commandEffect_cursor, encode_ne_nil] at hcur

theorem decodeLoop_of_raises {s : State} (h : recordStep s = .next s.raiseDecodeError) (m : Nat) :
    decodeLoop (m + 1) s = .next s.raiseDecodeError :=
  decodeLoop_succ_of_ends h (passEndsLoop_of_raises h) m

/-- Settles O7: at the end of the score, and in a record that reaches past it, the pass raises DecodeError and the loop ends
there; a record that reaches the end and goes on leads to such a pass. -/
theorem truncatedOrUnterminatedScoreRaisesDecodeError : Obligations.TruncatedOrUnterminatedScoreRaisesDecodeError := by
  refine fun s m => ⟨fun hend => ?atEnd, fun b0 len hb hlen hend => ?truncated,
    fun i tail t hdec _ _ hexec hend => ?unterminated⟩
  case atEnd =>
    have hraise := recordStep_at_end hend
    exact ⟨hraise, decodeLoop_of_raises hraise m⟩
  case truncated =>
    have hraise := recordStep_cut_off hb hlen hend
    exact ⟨hraise, decodeLoop_of_raises hraise m⟩
  case unterminated =>
    have hraise := recordStep_at_end hend
    refine ⟨hraise, fun hgo => ?_⟩
    calc decodeLoop (m + 2) s
      _ = decodeLoop (m + 1) t := decodeLoop_succ_of_not_ends ((recordStep_of_decode_ok hdec).trans hexec)
          ((passEndsLoop_of_decode_ok hdec t).trans hgo) (m + 1)
      _ = .next t.raiseDecodeError := decodeLoop_of_raises hraise m

end Sys2Proof.Proofs
end

section
/-! PROOFS. The configuration (R20, R113): no record, decode loop, Tick or host operation writes it. -/

namespace Sys2Proof.Proofs

open Sys2Proof Sys2Proof.Machine

/-- A pass changes the engine alone, in either of its outcomes. -/
theorem recordStep_cfg {s t : State} (h : recordStep s = .next t) : t.cfg = s.cfg := by
  rcases recordStep_cases s with ⟨hr, -⟩ | ⟨_, _, -, -, hr⟩
  · cases hr.symm.trans h
    exact s.raiseDecodeError_cfg
  · cases hr.symm.trans h
    exact s.withEng_cfg _

theorem decodeLoop_cfg {n : Nat} {s t : State} (h : decodeLoop n s = .next t) : t.cfg = s.cfg :=
  decodeLoop_keeps (P := fun u => u.cfg = s.cfg) (fun _ _ hu hr => (recordStep_cfg hr).trans hu) rfl h

theorem tick_cfg {s t : State} (h : tick s = .next t) : t.cfg = s.cfg := by
  rcases tick_cases s with ⟨hf, -⟩ | ⟨u, hu, -, ht⟩
  · cases hf.symm.trans h
  · have serviced : u.cfg = s.cfg := hu ▸ s.withEng_cfg _
    rcases ht with ⟨-, hn⟩ | ⟨-, hd⟩
    · cases hn.symm.trans h
      exact serviced
    · exact (decodeLoop_cfg (hd.symm.trans h)).trans serviced

theorem timerFires_cfg {s t : State} (h : timerFires s = .next t) : t.cfg = s.cfg := by
  unfold timerFires at h
  split at h
  · exact tick_cfg h
  · cases h
    rfl

theorem hostOp_cfg {op : HostOp} {s t : State} (h : hostOp op s = .next t) : t.cfg = s.cfg :=
  (hostOp_cases h).1

theorem step_cfg {s t : State} (h : step s = .next t) : t.cfg = s.cfg := by
  rcases step_cases s with ⟨-, hf⟩ | ⟨-, ⟨rest, -, ht⟩ | ⟨op, rest, -, ho⟩⟩
  · cases hf.symm.trans h
  · exact (timerFires_cfg (ht.symm.trans h)).trans (s.withInputs_cfg rest)
  · exact (hostOp_cfg (ho.symm.trans h)).trans (s.withInputs_cfg rest)

/-- Settles O39: each agent's step keeps the configuration, and with it the period table. -/
theorem noStepWritesTheConfiguration : Obligations.NoStepWritesTheConfiguration :=
  fun _ _ h => ⟨step_cfg h, congrArg Config.periodTable (step_cfg h)⟩

end Sys2Proof.Proofs
end

section
/-! PROOFS. Channel service (R121, R182): when it happens, and what it leaves of each channel. -/

namespace Sys2Proof.Proofs

open Sys2Proof Sys2Proof.Machine

/-! ### When service happens -/

/-- R182: an active channel whose counter is 0. -/
theorem overdue_eq_true_iff {k : Channel} : k.overdue = true ↔ k.active = true ∧ k.ticksRemaining = 0 := by
  simp [Channel.overdue]

theorem serviceChannels_of_not_overdue {e : EngineState} (h : ∀ k ∈ e.chans, k.overdue = false) :
    e.serviceChannels = some { e with chans := e.chans.map Channel.service } := by
  rcases e.serviceChannels_cases with ⟨-, k, hk, ho⟩ | ⟨hs, -⟩
  · simp [h k hk] at ho
  · exact hs

/-- The invariant's counters are nonzero where a channel is active (R25). -/
theorem not_overdue_of_inv {s : State} (h : EngineInv s) : ∀ k ∈ s.eng.chans, k.overdue = false :=
  fun k hk => Channel.overdue_eq_false fun ha hz => by
    obtain ⟨-, hcounter⟩ := h.counters k hk
    obtain ⟨hpos, -⟩ := hcounter ha
    simp [hz] at hpos

/-- A Tick that finds an overdue channel services nothing: it is the fault of R182. -/
theorem tick_of_overdue {s : State} {k : Channel} (hk : k ∈ s.eng.chans) (ho : k.overdue = true) :
    tick s = .fault .invariantViolation := by
  rcases tick_cases s with ⟨hf, -⟩ | ⟨_, -, hn, -⟩
  · exact hf
  · simp [hn k hk] at ho

/-! ### What service does -/

/-- Service writes the channels alone, each by its own service (R123). -/
theorem serviceChannels_eq_some {e f : EngineState} (h : e.serviceChannels = some f) :
    f = { e with chans := e.chans.map Channel.service } := by
  rcases e.serviceChannels_cases with ⟨hn, -⟩ | ⟨hs, -⟩
  · cases hn.symm.trans h
  · exact Option.some.inj (h.symm.trans hs)

/-- Settles O21: service is `Channel.service` on every channel, whose three cases are R121's; it happens exactly where no
channel is overdue. -/
theorem channelServiceCountsDownAndToggles : Obligations.ChannelServiceCountsDownAndToggles := by
  refine ⟨fun e f h => ?serviced, fun s h => ?nonzero, fun s h => ?invariant, fun s ⟨k, hk, h⟩ => ?overdue⟩
  case serviced =>
    obtain rfl := serviceChannels_eq_some h
    refine ⟨rfl, List.length_map Channel.service, fun c k hc =>
      ⟨k.service, by simp [hc], ?inactive, fun ha h2 => ?counts, ?toggles⟩⟩
    case inactive => exact Channel.service_inactive
    case counts =>
      rw [Channel.service_counts ha h2]
      exact ⟨rfl, by bv_omega⟩
    case toggles => exact Channel.service_toggles
  case nonzero => exact ⟨_, serviceChannels_of_not_overdue fun k hk => Channel.overdue_eq_false (h k hk)⟩
  case invariant => exact ⟨_, serviceChannels_of_not_overdue (not_overdue_of_inv h)⟩
  case overdue => exact tick_of_overdue hk (overdue_eq_true_iff.2 h)

end Sys2Proof.Proofs
end

section
/-! PROOFS. `isPlaying` (R33, R144): the answer in any state, and in one that EndOfScore or a DecodeError has stopped. -/

namespace Sys2Proof.Proofs

open Sys2Proof Sys2Proof.Machine

/-- The flag of R33. -/
theorem isPlaying_eq_true_iff {e : EngineState} : e.isPlaying = true ↔ e.playbackState = playing := by
  simp [EngineState.isPlaying]

/-- `isPlaying` answers the flag and writes nothing else (R144). -/
theorem hostOp_isPlaying (s : State) :
    hostOp .isPlaying s = .next { s with result := some (.playingFlag s.eng.isPlaying) } := rfl

theorem hostOp_isPlaying_of_stopped {s : State} (h : s.eng.playbackState = stopped) :
    hostOp .isPlaying s = .next { s with result := some (.playingFlag false) } := by
  have hflag : s.eng.isPlaying = false := by simp [EngineState.isPlaying, h]
  rw [hostOp_isPlaying, hflag]

/-- EndOfScore is legal in every state, and its effect is `halt` (R94). -/
theorem exec_endOfScore_stopped {s t : State} (h : exec .endOfScore s = .next t) : t.eng.playbackState = stopped := by
  cases (exec_legal (i := .endOfScore) (s := s) rfl).symm.trans h
  exact EngineState.halt_playbackState _

/-- Settles O34: the answer is the flag of R33, which is false once EndOfScore or fail-stop has gone to Stopped. -/
theorem isPlayingReportsTheStateWithoutSideEffects : Obligations.IsPlayingReportsTheStateWithoutSideEffects := by
  refine ⟨fun s => ⟨s.eng.isPlaying, hostOp_isPlaying s, isPlaying_eq_true_iff⟩, fun s t h => ?endOfScore,
    fun s t h => ?decodeError⟩
  case endOfScore => exact hostOp_isPlaying_of_stopped (exec_endOfScore_stopped h)
  case decodeError =>
    subst h
    exact hostOp_isPlaying_of_stopped s.eng.failStop_playbackState

end Sys2Proof.Proofs
end

section
/-! PROOFS. The exceptions (R172 to R174): what DecodeOne fails on raises DecodeError, whose fail-stop ends the decode loop;
and `playScore` while Playing is rejected. -/

namespace Sys2Proof.Proofs

open Sys2Proof Sys2Proof.Machine

/-! ### DecodeError -/

/-- DecodeOne accepts every legal record that the decoder reads, at the record's length: what it fails on is no record, or an
illegal one (R90, R172). -/
theorem decodeOne_of_decode_legal {c : Config} {bytes tail : List Byte} {i : Instr} (h : decode bytes = .ok (i, tail))
    (hl : i.legal c = true) : decodeOne c bytes = .ok (i, (encode i).length) := by
  obtain _ | ⟨b0, rest⟩ := bytes
  · cases h
  by_cases hP : highNibble b0 = 0x0#4
  · obtain _ | ⟨p, rest⟩ := rest
    · simp [decode, hP] at h
    obtain ⟨rfl, -⟩ : .setChannelPitch (lowNibble b0) p = i ∧ rest = tail := by simpa [decode, hP] using h
    obtain ⟨hn, hp⟩ : (lowNibble b0).toNat < c.maxChans ∧ p.toNat < c.numPitches := by simpa [Instr.legal] using hl
    simp [decodeOne, hP, Nat.not_le.2 hn, Nat.not_le.2 hp, encode]
  by_cases hS : highNibble b0 = 0x8#4
  · obtain ⟨rfl, -⟩ : .silenceChannel (lowNibble b0) = i ∧ rest = tail := by simpa [decode, hS] using h
    have hn : (lowNibble b0).toNat < c.maxChans := by simpa [Instr.legal] using hl
    simp [decodeOne, hS, Nat.not_le.2 hn, encode]
  by_cases hT : b0 = 0xF0#8
  · subst hT
    obtain _ | ⟨lo, _ | ⟨hi, rest⟩⟩ := rest <;> cases h
    rfl
  by_cases hE : b0 = 0xFF#8
  · subst hE
    cases h
    rfl
  · obtain ⟨rfl, -⟩ : reservedOf b0 = i ∧ rest = tail := by simpa [decode, hP, hS, hT, hE] using h
    simp [legal_reservedOf] at hl

/-- Where DecodeOne fails, the pass raises DecodeError: a pass that takes effect runs a legal record (R90). -/
theorem recordStep_of_decodeOne_error {s : State} {cause : DecodeCause}
    (h : decodeOne s.cfg s.eng.recordBytes = .error cause) : recordStep s = .next s.raiseDecodeError := by
  rcases recordStep_cases s with ⟨hr, -⟩ | ⟨i, tail, hdec, hl, -⟩
  · exact hr
  · cases (decodeOne_of_decode_legal hdec hl).symm.trans h

/-- The registers that fail-stop writes (R174); every other one is as before. -/
theorem raiseDecodeError_eq (s : State) : s.raiseDecodeError = { s with
    eng := { s.eng with
      chans := s.eng.chans.map Channel.silence, timerArmed := false, playbackState := stopped, errorStatus := 2#2 } } :=
  rfl

/-- Settles O15: the pass raises DecodeError, which ends the loop, and fail-stop silences every channel. -/
theorem decodeErrorRunsFailStopAndEndsTheTick : Obligations.DecodeErrorRunsFailStopAndEndsTheTick := by
  refine fun s cause m h => ⟨s.eng.chans.map Channel.silence, ?stops, List.length_map _, fun c k hk => ?silenced⟩
  case stops => rw [decodeLoop_of_raises (recordStep_of_decodeOne_error h), raiseDecodeError_eq]
  case silenced => rw [List.getElem?_map, hk, Option.map_some, Channel.silence_eq]

/-! ### ConcurrentStartError -/

/-- Settles O29: while Playing, `playScore` looks at nothing but the flag of R33 and writes its answer alone. -/
theorem playScoreWhilePlayingIsRejectedUnchanged : Obligations.PlayScoreWhilePlayingIsRejectedUnchanged := by
  intro buf s h
  have hflag : s.eng.isPlaying = true := isPlaying_eq_true_iff.2 h
  simp [hostOp, playScore, hflag, State.answer]

end Sys2Proof.Proofs
end

section
/-! PROOFS. Decode loops, Ticks and steps: the equation of each case of a step, and the inductions over the passes of a
loop, packaged once. -/

namespace Sys2Proof.Proofs

open Sys2Proof Sys2Proof.Machine

/-! ### A step, case by case -/

/-- The timer fires next, by itself or listed first, and leaves `rest` to come (log 2). -/
abbrev TimerFiresNext (s : State) (rest : List Input) : Prop :=
  s.inputs = [] ∧ rest = [] ∨ s.inputs = .tick :: rest

theorem step_of_timer {s : State} {rest : List Input} (hp : s.eng.playbackState ≠ 3#2) (hi : TimerFiresNext s rest) :
    step s = timerFires (s.withInputs rest) := by
  rcases step_cases s with ⟨h3, -⟩ | ⟨-, ⟨rest', hi', h⟩ | ⟨op, rest', hi', -⟩⟩
  · exact absurd h3 hp
  · obtain rfl : rest' = rest := by rcases hi with ⟨hi, rfl⟩ | hi <;> simp_all
    exact h
  · rcases hi with ⟨hi, -⟩ | hi <;> simp [hi] at hi'

/-- An armed timer delivers a Tick (R120). -/
theorem step_of_armed {s : State} {rest : List Input} (hp : s.eng.playbackState ≠ 3#2) (hi : TimerFiresNext s rest)
    (ha : s.eng.timerArmed = true) : step s = tick (s.withInputs rest) := by
  simp [step_of_timer hp hi, timerFires, ha]

/-- A disarmed timer delivers none (R120). -/
theorem step_of_disarmed {s : State} {rest : List Input} (hp : s.eng.playbackState ≠ 3#2)
    (hi : TimerFiresNext s rest) (ha : s.eng.timerArmed = false) : step s = .next (s.withInputs rest) := by
  simp [step_of_timer hp hi, timerFires, ha]

/-- A host operation is one step (R58, R140). -/
theorem step_of_host {s : State} {op : HostOp} {rest : List Input} (hp : s.eng.playbackState ≠ 3#2)
    (hi : s.inputs = .host op :: rest) : step s = hostOp op (s.withInputs rest) := by
  rcases step_cases s with ⟨h3, -⟩ | ⟨-, ⟨rest', hi', -⟩ | ⟨op', rest', hi', h⟩⟩
  · exact absurd h3 hp
  · simp [hi] at hi'
  · obtain ⟨rfl, rfl⟩ : op' = op ∧ rest' = rest := by simpa [hi, eq_comm] using hi'
    exact h

/-- Everything a step that answers can be: a delivered Tick, a firing of the disarmed timer, a host operation. -/
theorem step_next_cases {s t : State} (h : step s = .next t) :
    s.eng.playbackState ≠ 3#2 ∧
    ((∃ rest, TimerFiresNext s rest ∧ s.eng.timerArmed = true ∧ tick (s.withInputs rest) = .next t) ∨
      (∃ rest, TimerFiresNext s rest ∧ s.eng.timerArmed = false ∧ t = s.withInputs rest) ∨
      ∃ op rest, s.inputs = .host op :: rest ∧ hostOp op (s.withInputs rest) = .next t) := by
  rcases step_cases s with ⟨-, hf⟩ | ⟨hp, ⟨rest, hi, -⟩ | ⟨op, rest, hi, ho⟩⟩
  · cases hf.symm.trans h
  · refine ⟨hp, ?_⟩
    cases ha : s.eng.timerArmed with
    | true => exact .inl ⟨rest, hi, rfl, (step_of_armed hp hi ha).symm.trans h⟩
    | false =>
      cases (step_of_disarmed hp hi ha).symm.trans h
      exact .inr (.inl ⟨rest, hi, rfl, rfl⟩)
  · exact ⟨hp, .inr (.inr ⟨op, rest, hi, ho.symm.trans h⟩)⟩

theorem TimerFiresNext.not_host {s : State} {rest rest' : List Input} {op : HostOp} (h : TimerFiresNext s rest) :
    s.inputs ≠ .host op :: rest' := by
  rcases h with ⟨h, -⟩ | h <;> simp [h]

/-! ### Inductions over the passes of a loop -/

/-- A loop whose every pass keeps `P` or is the last and reaches `R` ends in `P` or in `R`. -/
theorem decodeLoop_keeps_or_ends {P R : State → Prop}
    (hpass : ∀ s t, P s → recordStep s = .next t → P t ∨ (passEndsLoop s t = true ∧ R t)) {n : Nat} {s t : State}
    (hs : P s) (h : decodeLoop n s = .next t) : P t ∨ R t := by
  induction n generalizing s with
  | zero => cases h
  | succ n ih =>
    obtain ⟨u, hu⟩ := recordStep_next s
    have hnext := hpass s u hs hu
    cases he : passEndsLoop s u with
    | true =>
      cases (decodeLoop_succ_of_ends hu he n).symm.trans h
      exact hnext.imp_right And.right
    | false =>
      have hPu : P u := hnext.resolve_right fun hr => by simp [he] at hr
      exact ih hPu ((decodeLoop_succ_of_not_ends hu he n).symm.trans h)

/-- The state in which a Tick looks at the countdown: the channels serviced, the countdown down by one (R124, R125). -/
def serviced (s : State) : State :=
  s.withEng { s.eng with chans := s.eng.chans.map Channel.service, eventDelay := countdown s.eng.eventDelay }

/-- A Tick that answers stays at the serviced state or runs the decode loop from it. -/
theorem tick_next_cases {s t : State} (h : tick s = .next t) :
    t = serviced s ∨ decodeLoop (passesAllowed (serviced s)) (serviced s) = .next t := by
  rcases tick_cases s with ⟨hf, -⟩ | ⟨u, rfl, -, ⟨-, hn⟩ | ⟨-, hd⟩⟩
  · cases hf.symm.trans h
  · exact .inl (Host.Outcome.next.inj (h.symm.trans hn))
  · exact .inr (hd.symm.trans h)

theorem tick_keeps_or_ends {P R : State → Prop}
    (hpass : ∀ s t, P s → recordStep s = .next t → P t ∨ (passEndsLoop s t = true ∧ R t)) {s t : State}
    (hs : P (serviced s)) (h : tick s = .next t) : P t ∨ R t := by
  rcases tick_next_cases h with rfl | hd
  · exact .inl hs
  · exact decodeLoop_keeps_or_ends hpass hs hd

theorem tick_keeps {P : State → Prop} (hpass : ∀ s t, P s → recordStep s = .next t → P t) {s t : State}
    (hs : P (serviced s)) (h : tick s = .next t) : P t := by
  rcases tick_next_cases h with rfl | hd
  · exact hs
  · exact decodeLoop_keeps hpass hs hd

/-- A Tick with no overdue channel looks at the countdown of the serviced state (R124, R125). -/
theorem tick_of_not_overdue {s : State} (hk : ∀ k ∈ s.eng.chans, k.overdue = false) :
    tick s = if countdown s.eng.eventDelay = 0 then decodeLoop (passesAllowed (serviced s)) (serviced s)
      else .next (serviced s) := by
  rcases tick_cases s with ⟨-, k, hmem, ho⟩ | ⟨u, rfl, -, ⟨hne, hn⟩ | ⟨h0, hd⟩⟩
  · simp [hk k hmem] at ho
  · exact hn.trans (if_neg hne).symm
  · exact hd.trans (if_pos h0).symm

/-- With a countdown of 2 or more it ends there. -/
theorem tick_of_two_le {s : State} (hk : ∀ k ∈ s.eng.chans, k.overdue = false) (hd : 2 ≤ s.eng.eventDelay.toNat) :
    tick s = .next (serviced s) :=
  (tick_of_not_overdue hk).trans (if_neg (countdown_of_two_le hd).1)

/-- With a countdown of at most 1 it is a decode loop. -/
theorem tick_of_le_one {s : State} (hk : ∀ k ∈ s.eng.chans, k.overdue = false) (hd : s.eng.eventDelay.toNat ≤ 1) :
    (serviced s).eng.eventDelay = 0 ∧ tick s = decodeLoop (passesAllowed (serviced s)) (serviced s) := by
  have h0 : countdown s.eng.eventDelay = 0 := by
    unfold countdown
    split
    · assumption
    · bv_omega
  exact ⟨h0, (tick_of_not_overdue hk).trans (if_pos h0)⟩

end Sys2Proof.Proofs
end

section
/-! PROOFS. The round trips between records and bytes (R70 to R82), and DecodeOne (R90) against the decoder. -/

namespace Sys2Proof.Proofs

open Sys2Proof Sys2Proof.Machine

/-! ### The round trips -/

/-- The opcode byte is in one of the reserved rows: it is that of no format (R71, R77). -/
def ReservedByte (b : Byte) : Prop := highNibble b ≠ 0x0#4 ∧ highNibble b ≠ 0x8#4 ∧ b ≠ 0xF0#8 ∧ b ≠ 0xFF#8

/-- A reserved byte is read as the record of its row (R77). -/
theorem decode_reservedByte {b : Byte} (h : ReservedByte b) (rest : List Byte) :
    decode (b :: rest) = .ok (reservedOf b, rest) := by
  obtain ⟨hP, hS, hT, hE⟩ := h
  simp [decode, hP, hS, hT, hE]

/-- Settles O4: one equation per format, and one for the reserved rows. -/
theorem decodeOfEncodeIsIdentity : Obligations.DecodeOfEncodeIsIdentity := by
  intro i rest hi
  cases i with
  | setChannelPitch n p => exact decode_formatP n p rest
  | silenceChannel n => exact decode_formatS n rest
  | advanceTime t =>
    calc decode (encode (.advanceTime t) ++ rest)
      _ = .ok (.advanceTime (countOfBytes (countLow t) (countHigh t)), rest) := decode_formatT _ _ rest
      _ = .ok (.advanceTime t, rest) := by rw [countOfBytes_low_high]
  | endOfScore => exact decode_formatE rest
  | reservedLow b =>
    exact (decode_reservedByte (highNibble_reserved b (.inl hi)) rest).trans (by rw [reservedOf_low b hi])
  | reservedMid b =>
    exact (decode_reservedByte (highNibble_reserved b (.inr (.inl hi))) rest).trans (by rw [reservedOf_mid b hi])
  | reservedHigh b =>
    exact (decode_reservedByte (highNibble_reserved b (.inr (.inr hi))) rest).trans (by rw [reservedOf_high b hi])

/-- Everything the decoder can read: a record of one of the four formats, or a reserved byte. -/
theorem decode_ok_cases {bytes tail : List Byte} {i : Instr} (h : decode bytes = .ok (i, tail)) :
    (∃ n p, i = .setChannelPitch n p ∧ bytes = (0x0#4 ++ n) :: p :: tail) ∨
    (∃ n, i = .silenceChannel n ∧ bytes = (0x8#4 ++ n) :: tail) ∨
    (∃ lo hi, i = .advanceTime (countOfBytes lo hi) ∧ bytes = 0xF0#8 :: lo :: hi :: tail) ∨
    (i = .endOfScore ∧ bytes = 0xFF#8 :: tail) ∨
    ∃ b, ReservedByte b ∧ i = reservedOf b ∧ bytes = b :: tail := by
  obtain _ | ⟨b0, rest⟩ := bytes
  · cases h
  have hb := append_nibbles b0
  by_cases hP : highNibble b0 = 0x0#4
  · obtain _ | ⟨p, rest⟩ := rest
    · simp [decode, hP] at h
    obtain ⟨rfl, rfl⟩ : .setChannelPitch (lowNibble b0) p = i ∧ rest = tail := by simpa [decode, hP] using h
    exact .inl ⟨lowNibble b0, p, rfl, by rw [← hP, hb]⟩
  by_cases hS : highNibble b0 = 0x8#4
  · obtain ⟨rfl, rfl⟩ : .silenceChannel (lowNibble b0) = i ∧ rest = tail := by simpa [decode, hS] using h
    exact .inr (.inl ⟨lowNibble b0, rfl, by rw [← hS, hb]⟩)
  by_cases hT : b0 = 0xF0#8
  · subst hT
    obtain _ | ⟨lo, _ | ⟨hi, rest⟩⟩ := rest <;> cases h
    exact .inr (.inr (.inl ⟨lo, hi, rfl, rfl⟩))
  by_cases hE : b0 = 0xFF#8
  · subst hE
    cases h
    exact .inr (.inr (.inr (.inl ⟨rfl, rfl⟩)))
  · have hres : ReservedByte b0 := ⟨hP, hS, hT, hE⟩
    cases (decode_reservedByte hres rest).symm.trans h
    exact .inr (.inr (.inr (.inr ⟨b0, hres, rfl, rfl⟩)))

/-- What the decoder read is encodable, and its bytes stand in front of what it left. -/
theorem encode_of_decode {bytes tail : List Byte} {i : Instr} (h : decode bytes = .ok (i, tail)) :
    i.encodable = true ∧ encode i ++ tail = bytes := by
  obtain ⟨n, p, rfl, rfl⟩ | ⟨n, rfl, rfl⟩ | ⟨lo, hi, rfl, rfl⟩ | ⟨rfl, rfl⟩ | ⟨b, ⟨hP, hS, hT, hE⟩, rfl, rfl⟩ :=
    decode_ok_cases h
  · exact ⟨rfl, rfl⟩
  · exact ⟨rfl, rfl⟩
  · exact ⟨rfl, by simp [encode, countLow_countOfBytes, countHigh_countOfBytes]⟩
  · exact ⟨rfl, rfl⟩
  · obtain ⟨hencodable, hencode⟩ := reservedOf_encodable b hP hS hT hE
    exact ⟨hencodable, by rw [hencode]; rfl⟩

/-- Settles O5: read off what the decoder can read, format by format. -/
theorem encodeOfDecodeIsIdentity : Obligations.EncodeOfDecodeIsIdentity :=
  fun _ _ _ h => encode_of_decode h

/-- Settles O1: the vectors, evaluated. -/
theorem writtenOutWordsDecode : Obligations.WrittenOutWordsDecode :=
  ⟨rfl, rfl, rfl, rfl, rfl, rfl, rfl, rfl, rfl, rfl, rfl⟩

/-! ### DecodeOne -/

/-- DecodeOne gives only legal records that the decoder reads, with the record's length: the converse of
`decodeOne_of_decode_legal`. -/
theorem decode_of_decodeOne {c : Config} {bytes : List Byte} {i : Instr} {len : Nat}
    (h : decodeOne c bytes = .ok (i, len)) :
    (∃ tail, decode bytes = .ok (i, tail)) ∧ i.legal c = true ∧ len = (encode i).length := by
  obtain _ | ⟨b0, rest⟩ := bytes
  · cases h
  by_cases hP : highNibble b0 = 0x0#4
  · obtain _ | ⟨p, rest⟩ := rest
    · simp [decodeOne, hP] at h
    simp only [decodeOne, hP, if_true] at h
    split at h
    case isTrue => cases h
    case isFalse hn =>
      split at h
      case isTrue => cases h
      case isFalse hp =>
        cases h
        exact ⟨⟨rest, by simp [decode, hP]⟩, by simp [Instr.legal, Nat.not_le.1 hn, Nat.not_le.1 hp], rfl⟩
  by_cases hS : highNibble b0 = 0x8#4
  · simp only [decodeOne, if_neg hP, if_pos hS] at h
    split at h
    case isTrue => cases h
    case isFalse hn =>
      cases h
      exact ⟨⟨rest, by simp [decode, hS]⟩, by simp [Instr.legal, Nat.not_le.1 hn], rfl⟩
  by_cases hT : b0 = 0xF0#8
  · subst hT
    obtain _ | ⟨lo, _ | ⟨hi, rest⟩⟩ := rest <;> cases h
    exact ⟨⟨rest, rfl⟩, rfl, rfl⟩
  by_cases hE : b0 = 0xFF#8
  · subst hE
    cases h
    exact ⟨⟨rest, rfl⟩, rfl, rfl⟩
  · simp [decodeOne, hP, hS, hT, hE] at h

theorem commandEffect_errorStatus (c : Config) (i : Instr) (e : EngineState) :
    (commandEffect c i e).errorStatus = e.errorStatus := by
  cases i with
  | advanceTime t => exact e.loadDelay_errorStatus (scaleDelay e.speedScale t)
  | _ => rfl

/-- Settles O16: the window is the score's bytes in order; the pass runs what DecodeOne gives, which is legal, and
raises DecodeError where it fails. -/
theorem recordPassAgreesWithDecodeOne : Obligations.RecordPassAgreesWithDecodeOne := by
  refine fun s => ⟨fun j => ?window, fun cause h => ?fails, fun i len h => ?gives⟩
  case window => exact s.eng.getElem?_readBytes s.eng.cursor 3 j
  case fails => exact recordStep_of_decodeOne_error h
  case gives =>
    obtain ⟨⟨tail, hdec⟩, hlegal, rfl⟩ := decode_of_decodeOne h
    exact ⟨hlegal, recordStep_of_decode_ok hdec, _, exec_legal hlegal, by simp [commandEffect_cursor],
      by simp [commandEffect_errorStatus]⟩

end Sys2Proof.Proofs
end

section
/-! PROOFS. The invariant (R22 to R32): construction gives it, and every record, Tick and host operation keeps it. -/

namespace Sys2Proof.Proofs

open Sys2Proof Sys2Proof.Machine

/-! ### One channel -/

/-- What the invariant says of one channel (R24, R25). -/
def ChannelOk (c : Config) (k : Channel) : Prop := k.silentPin ∧ k.counterOk c

theorem ChannelOk.silence {c : Config} {k : Channel} (h : ChannelOk c k) : ChannelOk c k.silence :=
  ⟨silentPin_silence k, h.2.1, by simp⟩

theorem channelOk_clear (c : Config) (k : Channel) : ChannelOk c k.clear :=
  ⟨silentPin_clear k, BitVec.le_refl _, by simp⟩

theorem channelOk_startTone {c : Config} {hp : U32} (hmem : hp ∈ c.periodTable) (hpos : 1#32 ≤ hp) (k : Channel) :
    ChannelOk c (k.startTone hp) :=
  ⟨silentPin_startTone hp k, BitVec.le_refl _, fun _ => ⟨hpos, hmem⟩⟩

/-- Service counts down to 1 at the least and reloads with the half-period, which is at least the counter (R121). -/
theorem ChannelOk.service {c : Config} {k : Channel} (h : ChannelOk c k) : ChannelOk c k.service := by
  cases ha : k.active with
  | false => rwa [Channel.service_inactive ha]
  | true =>
    obtain ⟨hsilent, hle, hactive⟩ := h
    obtain ⟨hpos, hmem⟩ := hactive ha
    refine ⟨silentPin_service hsilent, ?_⟩
    by_cases h1 : k.ticksRemaining.toNat = 1
    · rw [Channel.service_toggles ha h1]
      exact ⟨BitVec.le_refl _, fun _ => ⟨by bv_omega, hmem⟩⟩
    · have h2 : 2 ≤ k.ticksRemaining.toNat := by bv_omega
      rw [Channel.service_counts ha h2]
      exact ⟨by simp only; bv_omega, fun _ => ⟨by simp only; bv_omega, hmem⟩⟩

/-- The half-period of a pitch that exists is an entry of the table, which holds no 0 (R8, R112). -/
theorem halfPeriodFor_entry {c : Config} {p : Byte} (hc : c.wf) (hp : p.toNat < c.numPitches) :
    halfPeriodFor c p ∈ c.periodTable ∧ 1#32 ≤ halfPeriodFor c p := by
  obtain ⟨-, -, hentries, -, -⟩ := hc
  have hmem : halfPeriodFor c p ∈ c.periodTable := by simp [halfPeriodFor, hp]
  exact ⟨hmem, by simpa using List.all_eq_true.1 hentries _ hmem⟩

end Sys2Proof.Proofs

namespace Sys2Proof.Machine

open Sys2Proof.Proofs

/-! ### The two shapes of a state the engine goes to -/

/-- The invariant looks at the configuration and at the engine alone. -/
theorem EngineInv.of_eng_eq {s t : State} (h : EngineInv s) (hcfg : t.cfg = s.cfg) (heng : t.eng = s.eng) :
    EngineInv t := by
  obtain ⟨c, e, is, r⟩ := t
  subst hcfg heng
  exact ⟨h.cfg, h.chans, h.silent, h.counters, h.score, h.cursor, h.delay, h.state, h.timer, h.speed, h.error, h.quiet⟩

theorem EngineInv.channelOk {s : State} (h : EngineInv s) : ∀ k ∈ s.eng.chans, ChannelOk s.cfg k :=
  fun k hk => ⟨h.silent k hk, h.counters k hk⟩

/-- An armed engine keeps the invariant under any writes of channels, cursor and countdown within their bounds. -/
theorem EngineInv.sounding {s : State} (h : EngineInv s) (ha : s.eng.timerArmed = true) {chans : List Channel}
    {cursor : Nat} {delay : U32} (hlen : chans.length = s.eng.chans.length) (hk : ∀ k ∈ chans, ChannelOk s.cfg k)
    (hcursor : cursor ≤ s.eng.scoreLen) (hdelay : delay ≤ 6553500#32) :
    EngineInv (s.withEng { s.eng with chans := chans, cursor := cursor, eventDelay := delay }) where
  cfg := h.cfg
  chans := hlen.trans h.chans
  silent := fun k hmem => (hk k hmem).1
  counters := fun k hmem => (hk k hmem).2
  score := h.score
  cursor := hcursor
  delay := hdelay
  state := h.state
  timer := h.timer
  speed := h.speed
  error := h.error
  quiet := fun hn => by simp [ha] at hn

/-- Silencing every channel and disarming the timer, to go to a state other than Playing, keeps the invariant. -/
theorem EngineInv.silenced {s : State} (h : EngineInv s) {cursor : Nat} {delay : U32} {state error : BitVec 2}
    (hcursor : cursor ≤ s.eng.scoreLen) (hdelay : delay ≤ 6553500#32) (hlegal : state ≠ 3#2) (hplay : state ≠ playing)
    (herror : error = ResultCode.ok.code ∨ error = ResultCode.decodeError.code) :
    EngineInv (s.withEng { s.eng with
      chans := s.eng.chans.map Channel.silence, cursor := cursor, eventDelay := delay, playbackState := state,
      timerArmed := false, errorStatus := error }) := by
  have hk : ∀ k ∈ s.eng.chans.map Channel.silence, ChannelOk s.cfg k := by
    intro k hmem
    obtain ⟨j, hj, rfl⟩ := List.mem_map.1 hmem
    exact (h.channelOk j hj).silence
  have hinactive : ∀ k ∈ s.eng.chans.map Channel.silence, k.active = false := by
    intro k hmem
    obtain ⟨j, -, rfl⟩ := List.mem_map.1 hmem
    exact j.silence_active
  exact {
    cfg := h.cfg
    chans := (List.length_map _).trans h.chans
    silent := fun k hmem => (hk k hmem).1
    counters := fun k hmem => (hk k hmem).2
    score := h.score
    cursor := hcursor
    delay := hdelay
    state := hlegal
    timer := ⟨fun hn => by simp at hn, fun hp => absurd hp hplay⟩
    speed := h.speed
    error := herror
    quiet := fun _ => hinactive }

theorem EngineInv.raiseDecodeError {s : State} (h : EngineInv s) : EngineInv s.raiseDecodeError :=
  h.silenced h.cursor h.delay stopped_ne_illegal stopped_ne_playing (.inr rfl)

theorem EngineInv.serviced {s : State} (h : EngineInv s) (ha : s.eng.timerArmed = true) : EngineInv (serviced s) := by
  refine h.sounding ha (List.length_map _) (fun k hk => ?_) h.cursor
    (BitVec.le_trans (countdown_le s.eng.eventDelay) h.delay)
  obtain ⟨j, hj, rfl⟩ := List.mem_map.1 hk
  exact (h.channelOk j hj).service

theorem EngineInv.startPlayback {s : State} (h : EngineInv s) {bytes : List Byte}
    (hlen : bytes.length ≤ 2 ^ s.cfg.addrBits) : EngineInv (s.withEng (s.eng.startPlayback bytes)) := by
  have hk : ∀ k ∈ s.eng.chans.map Channel.clear, ChannelOk s.cfg k := by
    intro k hmem
    obtain ⟨j, -, rfl⟩ := List.mem_map.1 hmem
    exact channelOk_clear s.cfg j
  have hbytes : ∀ x ∈ Memory.ofBytes bytes, x.1 < bytes.length := fun x hx => by
    have := Memory.mem_ofBytesAt hx
    omega
  exact {
    cfg := h.cfg
    chans := (List.length_map _).trans h.chans
    silent := fun k hmem => (hk k hmem).1
    counters := fun k hmem => (hk k hmem).2
    score := ⟨hlen, nofun, Memory.wf_ofBytesAt 0 bytes, hbytes⟩
    cursor := Nat.zero_le _
    delay := BitVec.le_def.2 (Nat.zero_le _)
    state := playing_ne_illegal
    timer := by simp [EngineState.timerOk]
    speed := h.speed
    error := .inl rfl
    quiet := fun hn => by simp at hn }

theorem EngineInv.writeSpeed {s : State} (h : EngineInv s) {percent : Nat} (h1 : 1 ≤ percent) (h2 : percent ≤ 1000) :
    EngineInv (s.withEng (s.eng.writeSpeed percent)) := by
  have hpercent : (BitVec.ofNat 16 percent).toNat = percent := by simp; omega
  exact { h with
    speed := by simp [EngineState.speedOk, hpercent, toNat_speedScaleFor, h1, h2] }

theorem EngineInv.speedScale_le {s : State} (h : EngineInv s) : s.eng.speedScale.toNat ≤ 6553600 := by
  obtain ⟨-, -, hscale⟩ := h.speed
  exact hscale ▸ Nat.div_le_self _ _

end Sys2Proof.Machine

namespace Sys2Proof.Proofs

open Sys2Proof Sys2Proof.Machine

/-! ### Construction -/

theorem resetWith_inv {c : Config} (hc : c.wf) : EngineInv (State.resetWith c) := by
  have hk : ∀ k ∈ (State.resetWith c).eng.chans, k = Channel.reset := fun k hmem => List.eq_of_mem_replicate hmem
  exact {
    cfg := hc
    chans := List.length_replicate
    silent := fun k hmem _ => hk k hmem ▸ rfl
    counters := fun k hmem => hk k hmem ▸ ⟨BitVec.le_refl _, by simp [Channel.reset]⟩
    score := ⟨Nat.zero_le _, fun _ => rfl, ⟨.nil, by simp [State.resetWith, EngineState.reset]⟩,
      by simp [State.resetWith, EngineState.reset]⟩
    cursor := Nat.le_refl _
    delay := BitVec.le_def.2 (Nat.zero_le _)
    state := idle_ne_illegal
    timer := by simp [EngineState.timerOk, State.resetWith, EngineState.reset]
    speed := by simp [EngineState.speedOk, State.resetWith, EngineState.reset]
    error := .inl rfl
    quiet := fun _ k hmem => hk k hmem ▸ rfl }

/-- Settles O41: TC16 is well-formed. -/
theorem resetMeetsTheInvariant : Obligations.ResetMeetsTheInvariant := resetWith_inv (by decide)

theorem construct_of_wf {c : Config} (hc : c.wf) : construct c = .ok (State.resetWith c) := if_pos hc

theorem construct_of_not_wf {c : Config} (hc : ¬ c.wf) : construct c = .error .configError := if_neg hc

/-- Settles O40: construction answers `resetWith`, whose registers are R35's. -/
theorem constructionGivesTheResetValues : Obligations.ConstructionGivesTheResetValues := fun _ hc =>
  ⟨_, construct_of_wf hc, resetWith_inv hc, rfl, List.length_replicate, fun _ hk => List.eq_of_mem_replicate hk,
    rfl, rfl, rfl, rfl, rfl, rfl, rfl, rfl, rfl⟩

/-! ### Records -/

/-- A record that the decoder reads lies within the score. -/
theorem cursor_add_length_le {e : EngineState} {i : Instr} {tail : List Byte}
    (h : decode e.recordBytes = .ok (i, tail)) : e.cursor + (encode i).length ≤ e.scoreLen := by
  have hwin : e.recordBytes.length ≤ e.scoreLen - e.cursor := (e.readBytes_length _ _).2
  have hpos := List.length_pos_iff.2 (encode_ne_nil i)
  rw [← (encode_of_decode h).2, List.length_append] at hwin
  omega

/-- ScaleDelay fits the countdown's bound under every factor that a percent has (R28, R147). -/
theorem toNat_scaleDelay_le {scale : U32} (h : scale.toNat ≤ 6553600) (t : BitVec 16) :
    (scaleDelay scale t).toNat ≤ 6553500 := by
  have hprod : t.toNat * scale.toNat ≤ 65535 * 6553600 := Nat.mul_le_mul (by omega) h
  rw [toNat_scaleDelay]
  omega

/-- A pass from an armed engine keeps the invariant, and if it disarms the timer it is the last of its loop. -/
theorem recordStep_inv {s t : State} (h : EngineInv s) (ha : s.eng.timerArmed = true) (hr : recordStep s = .next t) :
    (EngineInv t ∧ t.eng.timerArmed = true) ∨ (passEndsLoop s t = true ∧ EngineInv t) := by
  rcases recordStep_cases s with ⟨hraise, hends⟩ | ⟨i, tail, hdec, hlegal, hrun⟩
  · cases hraise.symm.trans hr
    exact .inr ⟨hends, h.raiseDecodeError⟩
  · cases hrun.symm.trans hr
    have hcursor := cursor_add_length_le hdec
    cases i with
    | setChannelPitch n p =>
      obtain ⟨-, hp⟩ : n.toNat < s.cfg.maxChans ∧ p.toNat < s.cfg.numPitches := by simpa [Instr.legal] using hlegal
      obtain ⟨hmem, hpos⟩ := halfPeriodFor_entry h.cfg hp
      refine .inl ⟨h.sounding ha (List.length_modify _ _ _) (fun k hk => ?_) hcursor h.delay, ha⟩
      rcases mem_modify hk with hk | ⟨j, -, rfl⟩
      · exact h.channelOk k hk
      · exact channelOk_startTone hmem hpos j
    | silenceChannel n =>
      refine .inl ⟨h.sounding ha (List.length_modify _ _ _) (fun k hk => ?_) hcursor h.delay, ha⟩
      rcases mem_modify hk with hk | ⟨j, hj, rfl⟩
      · exact h.channelOk k hk
      · exact (h.channelOk j hj).silence
    | advanceTime n =>
      have hdelay : scaleDelay s.eng.speedScale n ≤ 6553500#32 :=
        BitVec.le_def.2 (toNat_scaleDelay_le h.speedScale_le n)
      exact .inl ⟨h.sounding ha rfl h.channelOk hcursor hdelay, ha⟩
    | endOfScore =>
      exact .inr ⟨passEndsLoop_of_decode_ok hdec _,
        h.silenced hcursor h.delay stopped_ne_illegal stopped_ne_playing h.error⟩
    | reservedLow b => cases hlegal
    | reservedMid b => cases hlegal
    | reservedHigh b => cases hlegal

/-! ### Ticks and host operations -/

theorem tick_inv {s t : State} (h : EngineInv s) (ha : s.eng.timerArmed = true) (ht : tick s = .next t) :
    EngineInv t :=
  (tick_keeps_or_ends (P := fun u => EngineInv u ∧ u.eng.timerArmed = true) (R := EngineInv)
    (fun _ _ hu hr => recordStep_inv hu.1 hu.2 hr) ⟨h.serviced ha, ha⟩ ht).elim And.left id

theorem hostOp_inv {op : HostOp} {s t : State} (h : EngineInv s) (ho : hostOp op s = .next t) : EngineInv t := by
  obtain ⟨hcfg, -, he | ⟨bytes, -, -, hlen, he, -⟩ | ⟨-, he, -⟩ | ⟨percent, -, h1, h2, he, -⟩ | ⟨-, he, -⟩⟩ :=
    hostOp_cases ho
  · exact h.of_eng_eq hcfg he
  · exact (h.startPlayback hlen).of_eng_eq hcfg he
  · have hstate : s.eng.stopPlayback.playbackState ≠ 3#2 ∧ s.eng.stopPlayback.playbackState ≠ playing := by
      rw [EngineState.stopPlayback_playbackState]
      split
      · decide
      · next hp => exact ⟨h.state, fun hn => hp (isPlaying_eq_true_iff.2 hn)⟩
    have hstop : EngineInv (s.withEng s.eng.stopPlayback) :=
      h.silenced (Nat.zero_le _) (BitVec.le_def.2 (Nat.zero_le _)) hstate.1 hstate.2 h.error
    exact hstop.of_eng_eq hcfg he
  · exact (h.writeSpeed h1 h2).of_eng_eq hcfg he
  · have hteardown : EngineInv (s.withEng s.eng.tearDown) :=
      h.silenced (Nat.zero_le _) (BitVec.le_def.2 (Nat.zero_le _)) idle_ne_illegal idle_ne_playing h.error
    exact hteardown.of_eng_eq hcfg he

theorem step_inv {s t : State} (h : EngineInv s) (hs : step s = .next t) : EngineInv t := by
  have hrest : ∀ rest, EngineInv (s.withInputs rest) := fun rest => h.of_eng_eq rfl rfl
  obtain ⟨-, ⟨rest, -, ha, ht⟩ | ⟨rest, -, -, rfl⟩ | ⟨op, rest, -, ho⟩⟩ := step_next_cases hs
  · exact tick_inv (hrest rest) ha ht
  · exact hrest rest
  · exact hostOp_inv (hrest rest) ho

/-- Settles O42: a Tick happens in an armed engine only, and its loop ends with the record that disarms it. -/
theorem everyStepKeepsTheInvariant : Obligations.EveryStepKeepsTheInvariant := fun _ _ => step_inv

end Sys2Proof.Proofs
end

section
/-! PROOFS. The lines (R24, R161, R165): a step keeps inactive channels low, and only the toggle of service raises a
line. -/

namespace Sys2Proof.Proofs

open Sys2Proof Sys2Proof.Machine

/-- Settles O53: every operation of the engine keeps R24, on any channels. -/
theorem everyStepKeepsInactiveChannelsLow : Obligations.EveryStepKeepsInactiveChannelsLow :=
  fun s t hs h => step_keeps_pinsSilent s t hs h

/-! ### What raises no line -/

/-- Every line that is high in `f` is high in `e`. -/
def RaisesNoLine (e f : EngineState) : Prop :=
  ∀ (c : Nat) (k' : Channel), f.chans[c]? = some k' → k'.pin = true → ∃ k, e.chans[c]? = some k ∧ k.pin = true

theorem raisesNoLine_of_chans_eq {e f : EngineState} (h : f.chans = e.chans) : RaisesNoLine e f :=
  fun _ k' hk' hpin => ⟨k', h ▸ hk', hpin⟩

theorem RaisesNoLine.trans {e f g : EngineState} (hf : RaisesNoLine e f) (hg : RaisesNoLine f g) : RaisesNoLine e g :=
  fun c k' hk' hpin =>
    have ⟨k, hk, hkpin⟩ := hg c k' hk' hpin
    hf c k hk hkpin

theorem raisesNoLine_of_chans_map {e f : EngineState} {g : Channel → Channel} (h : f.chans = e.chans.map g)
    (hg : ∀ k, (g k).pin = true → k.pin = true) : RaisesNoLine e f := by
  intro c k' hk' hpin
  rw [h, List.getElem?_map] at hk'
  obtain ⟨k, hk, rfl⟩ := Option.map_eq_some_iff.1 hk'
  exact ⟨k, hk, hg k hpin⟩

theorem raisesNoLine_of_chans_silenced {e f : EngineState} (h : f.chans = e.chans.map Channel.silence) :
    RaisesNoLine e f :=
  raisesNoLine_of_chans_map h fun k hk => by simp at hk

theorem raisesNoLine_onChannel (e : EngineState) (n : Nat) {g : Channel → Channel}
    (hg : ∀ k, (g k).pin = true → k.pin = true) : RaisesNoLine e (e.onChannel n g) := by
  intro c k' hk' hpin
  rw [EngineState.onChannel_chans, List.getElem?_modify] at hk'
  obtain ⟨k, hk, rfl⟩ := Option.map_eq_some_iff.1 hk'
  refine ⟨k, hk, ?_⟩
  split at hpin
  · exact hg k hpin
  · exact hpin

theorem raisesNoLine_commandEffect (c : Config) (i : Instr) (e : EngineState) :
    RaisesNoLine e (commandEffect c i e) := by
  cases i with
  | setChannelPitch n p => exact raisesNoLine_onChannel e _ fun _ hk => hk
  | silenceChannel n => exact raisesNoLine_onChannel e _ fun k hk => by simp at hk
  | advanceTime t => exact raisesNoLine_of_chans_eq (e.loadDelay_chans (scaleDelay e.speedScale t))
  | endOfScore => exact raisesNoLine_of_chans_silenced e.halt_chans
  | _ => exact raisesNoLine_of_chans_eq rfl

theorem recordStep_raisesNoLine {s t : State} (h : recordStep s = .next t) : RaisesNoLine s.eng t.eng := by
  rcases recordStep_cases s with ⟨hr, -⟩ | ⟨i, _, -, -, hr⟩
  · cases hr.symm.trans h
    exact raisesNoLine_of_chans_silenced s.eng.failStop_chans
  · cases hr.symm.trans h
    exact raisesNoLine_commandEffect s.cfg i (s.eng.advanceCursor (encode i).length)

/-- After channel service a Tick raises no line. -/
theorem tick_raisesNoLine_after_service {s t : State} (h : tick s = .next t) : RaisesNoLine (serviced s).eng t.eng :=
  tick_keeps (P := fun u => RaisesNoLine (serviced s).eng u.eng)
    (fun _ _ hu hr => hu.trans (recordStep_raisesNoLine hr)) (raisesNoLine_of_chans_eq rfl) h

theorem hostOp_raisesNoLine {op : HostOp} {s t : State} (h : hostOp op s = .next t) : RaisesNoLine s.eng t.eng := by
  obtain ⟨-, -, he | ⟨bytes, -, -, -, he, -⟩ | ⟨-, he, -⟩ | ⟨percent, -, -, -, he, -⟩ | ⟨-, he, -⟩⟩ := hostOp_cases h
    <;> rw [he]
  · exact raisesNoLine_of_chans_eq rfl
  · exact raisesNoLine_of_chans_map (s.eng.startPlayback_chans bytes) fun k hk => by simp at hk
  · exact raisesNoLine_of_chans_silenced s.eng.stopPlayback_chans
  · exact raisesNoLine_of_chans_eq (s.eng.writeSpeed_chans percent)
  · exact raisesNoLine_of_chans_silenced s.eng.tearDown_chans

/-! ### What raises one -/

/-- Service raises the line of an active channel whose counter is 1, and no other (R121). -/
theorem service_raises {k : Channel} (h0 : k.pin = false) (h1 : k.service.pin = true) :
    k.active = true ∧ k.ticksRemaining = 1 := by
  unfold Channel.service at h1
  split at h1
  case isFalse => simp [h0] at h1
  case isTrue ha =>
    unfold Channel.countDown at h1
    split at h1
    case isTrue hz => exact ⟨ha, by bv_omega⟩
    case isFalse => simp [h0] at h1

/-- Settles O47: of the agents' steps only channel service raises a line, and it happens in a delivered Tick. -/
theorem pinRisesOnlyByToggle : Obligations.PinRisesOnlyByToggle := by
  intro s t c k k' h hk hk' hlow hhigh
  have not_kept : ¬ RaisesNoLine s.eng t.eng := fun hkept => by
    obtain ⟨j, hj, hjpin⟩ := hkept c k' hk' hhigh
    obtain rfl := Option.some.inj (hj.symm.trans hk)
    simp [hlow] at hjpin
  obtain ⟨-, ⟨rest, hi, ha, ht⟩ | ⟨rest, -, -, rfl⟩ | ⟨op, rest, -, ho⟩⟩ := step_next_cases h
  · obtain ⟨j, hj, hjpin⟩ := tick_raisesNoLine_after_service ht c k' hk' hhigh
    obtain rfl : j = k.service := by simpa [serviced, hk, eq_comm] using hj
    obtain ⟨hactive, hone⟩ := service_raises hlow hjpin
    exact ⟨hactive, hone, ha, fun _ _ => hi.not_host⟩
  · exact absurd (raisesNoLine_of_chans_eq rfl) not_kept
  · exact absurd (hostOp_raisesNoLine (s := s.withInputs rest) ho) not_kept

end Sys2Proof.Proofs
end

section
/-! PROOFS. The stopped engine (R199): disarmed, it stays silent until a `playScore`. -/

namespace Sys2Proof.Proofs

open Sys2Proof Sys2Proof.Machine

/-! ### When a host operation completes -/

/-- A host operation completes, but for a `playScore` of a buffer that is no operand of it (R141; log 11). -/
theorem hostOp_outcome (op : HostOp) (s : State) :
    (∃ t, hostOp op s = .next t) ∨
      (hostOp op s = .refused .scoreTooLong ∧ s.eng.isPlaying = false ∧
        ∃ bytes, op = .playScore (some bytes) ∧ 2 ^ s.cfg.addrBits < bytes.length) := by
  cases op with
  | playScore buf =>
    simp only [hostOp, playScore]
    split
    case isTrue => exact .inl ⟨_, rfl⟩
    case isFalse hp =>
      cases buf with
      | none => exact .inl ⟨_, rfl⟩
      | some bytes =>
        simp only
        split
        case isTrue => exact .inl ⟨_, rfl⟩
        case isFalse hlen => exact .inr ⟨rfl, by simpa using hp, bytes, rfl, Nat.not_le.1 hlen⟩
  | setSpeed percent =>
    simp only [hostOp, setSpeed]
    split <;> exact .inl ⟨_, rfl⟩
  | _ => exact .inl ⟨_, rfl⟩

/-! ### What a stopped engine keeps -/

/-- The invariant holds, the timer is disarmed, and no `playScore` is to come. -/
structure StoppedForGood (s : State) : Prop where
  inv : EngineInv s
  disarmed : s.eng.timerArmed = false
  noPlay : noPlayScore s.inputs

/-- A disarmed engine is not Playing (R30), and its channels are inactive and low (R24, R29). -/
theorem silent_of_disarmed {s : State} (h : EngineInv s) (ha : s.eng.timerArmed = false) :
    s.eng.isPlaying = false ∧ ∀ k ∈ s.eng.chans, k.active = false ∧ k.pin = false := by
  refine ⟨?_, fun k hk => ?_⟩
  · by_contra hp
    have harmed := h.timer.2 (isPlaying_eq_true_iff.1 (by simpa using hp))
    simp [ha] at harmed
  · have hinactive := h.quiet ha k hk
    exact ⟨hinactive, h.silent k hk hinactive⟩

/-- Only `playScore` arms the timer. -/
theorem hostOp_disarmed {op : HostOp} {s t : State} (hop : ∀ buf, op ≠ .playScore buf)
    (ha : s.eng.timerArmed = false) (h : hostOp op s = .next t) : t.eng.timerArmed = false := by
  obtain ⟨-, -, he | ⟨bytes, rfl, -⟩ | ⟨-, he, -⟩ | ⟨percent, -, -, -, he, -⟩ | ⟨-, he, -⟩⟩ := hostOp_cases h
  · rwa [he]
  · exact absurd rfl (hop _)
  · rw [he, EngineState.stopPlayback_timerArmed]
  · rwa [he, EngineState.writeSpeed_timerArmed]
  · rw [he, EngineState.tearDown_timerArmed]

theorem step_of_stopped {s : State} (h : StoppedForGood s) : ∃ t, step s = .next t ∧ StoppedForGood t := by
  have hp := h.inv.state
  suffices hstep : ∃ t, step s = .next t ∧ t.eng.timerArmed = false ∧ noPlayScore t.inputs by
    obtain ⟨t, ht, ha, hno⟩ := hstep
    exact ⟨t, ht, step_inv h.inv ht, ha, hno⟩
  cases hi : s.inputs with
  | nil => exact ⟨_, step_of_disarmed hp (.inl ⟨hi, rfl⟩) h.disarmed, h.disarmed, fun _ hn => nomatch hn⟩
  | cons i rest =>
    have hrest : noPlayScore rest := fun buf hmem => h.noPlay buf (hi ▸ List.mem_cons_of_mem _ hmem)
    cases i with
    | tick => exact ⟨_, step_of_disarmed hp (.inr hi) h.disarmed, h.disarmed, hrest⟩
    | host op =>
      have hop : ∀ buf, op ≠ .playScore buf := by
        rintro buf rfl
        exact h.noPlay buf (hi ▸ List.mem_cons_self)
      rcases hostOp_outcome op (s.withInputs rest) with ⟨t, ht⟩ | ⟨-, -, bytes, hplay, -⟩
      · obtain ⟨-, hinputs, -⟩ := hostOp_cases ht
        exact ⟨t, (step_of_host hp hi).trans ht, hostOp_disarmed (s := s.withInputs rest) hop h.disarmed ht,
          hinputs ▸ hrest⟩
      · exact absurd hplay (hop _)

/-- Settles O54: a firing finds the timer disarmed, and no host operation to come arms it. -/
theorem everyStepKeepsAStoppedEngineSilent : Obligations.EveryStepKeepsAStoppedEngineSilent := by
  intro s hinv ha hno
  obtain ⟨t, ht, h⟩ := step_of_stopped ⟨hinv, ha, hno⟩
  obtain ⟨hplay, hsilent⟩ := silent_of_disarmed h.inv h.disarmed
  exact ⟨t, ht, h.inv, h.disarmed, h.noPlay, hplay, hsilent⟩

theorem runSteps_of_stopped (n : Nat) {s : State} (h : StoppedForGood s) :
    ∃ u, runSteps n s = .next u ∧ StoppedForGood u := by
  induction n generalizing s with
  | zero => exact ⟨s, runSteps_zero s, h⟩
  | succ n ih =>
    obtain ⟨t, ht, hstopped⟩ := step_of_stopped h
    obtain ⟨u, hu, hu'⟩ := ih hstopped
    exact ⟨u, (runSteps_next ht).trans hu, hu'⟩

theorem hostOp_stops {op : HostOp} {s t : State} (hop : op = .stopScore ∨ op = .teardown)
    (h : hostOp op s = .next t) : t.eng.timerArmed = false := by
  rcases hop with rfl | rfl <;> cases h
  · exact s.eng.stopPlayback_timerArmed
  · exact s.eng.tearDown_timerArmed

/-- Settles O49: both operations disarm the timer, and every step of the run keeps the stopped engine. -/
theorem afterStopNothingSoundsUntilPlayScore : Obligations.AfterStopNothingSoundsUntilPlayScore := by
  intro s t op n hinv hop ht hno
  obtain ⟨u, hu, h⟩ := runSteps_of_stopped n ⟨hostOp_inv hinv ht, hostOp_stops hop ht, hno⟩
  exact ⟨u, hu, h.disarmed, silent_of_disarmed h.inv h.disarmed⟩

end Sys2Proof.Proofs
end

section
/-! PROOFS. The commands (R91 to R94) and the records that raise DecodeError (R76 to R78): the result of each and its
frame. -/

namespace Sys2Proof.Proofs

open Sys2Proof Sys2Proof.Machine

/-! ### The frame of every command -/

/-- `t` differs from `s` in no more than a command or a Tick writes: the score, the tempo, the configuration and the
model's own fields are the same (R50, R130). -/
structure SameButControl (s t : State) : Prop where
  score : SameScore s.eng t.eng
  speedPercent : t.eng.speedPercent = s.eng.speedPercent
  speedScale : t.eng.speedScale = s.eng.speedScale
  cfg : t.cfg = s.cfg
  inputs : t.inputs = s.inputs
  result : t.result = s.result

theorem SameButControl.trans {s t u : State} (h : SameButControl s t) (h' : SameButControl t u) :
    SameButControl s u where
  score := h.score.trans h'.score
  speedPercent := h'.speedPercent.trans h.speedPercent
  speedScale := h'.speedScale.trans h.speedScale
  cfg := h'.cfg.trans h.cfg
  inputs := h'.inputs.trans h.inputs
  result := h'.result.trans h.result

theorem commandEffect_speedPercent (c : Config) (i : Instr) (e : EngineState) :
    (commandEffect c i e).speedPercent = e.speedPercent := by
  cases i with
  | advanceTime t => exact e.loadDelay_speedPercent (scaleDelay e.speedScale t)
  | _ => rfl

theorem commandEffect_speedScale (c : Config) (i : Instr) (e : EngineState) :
    (commandEffect c i e).speedScale = e.speedScale := by
  cases i with
  | advanceTime t => exact e.loadDelay_speedScale (scaleDelay e.speedScale t)
  | _ => rfl

theorem sameButControl_raiseDecodeError (s : State) : SameButControl s s.raiseDecodeError :=
  ⟨⟨rfl, rfl⟩, rfl, rfl, rfl, rfl, rfl⟩

theorem exec_sameButControl {i : Instr} {s t : State} (h : exec i s = .next t) : SameButControl s t := by
  rcases exec_cases i s with ⟨-, he⟩ | ⟨-, he⟩
  · cases he.symm.trans h
    exact ⟨sameScore_commandEffect s.cfg i (s.eng.advanceCursor (encode i).length),
      commandEffect_speedPercent s.cfg i (s.eng.advanceCursor (encode i).length),
      commandEffect_speedScale s.cfg i (s.eng.advanceCursor (encode i).length), rfl, rfl, rfl⟩
  · cases he.symm.trans h
    exact sameButControl_raiseDecodeError s

/-- Settles O8: a command writes channels, cursor, countdown and the control registers alone. -/
theorem commandsLeaveScoreTempoAndConfiguration : Obligations.CommandsLeaveScoreTempoAndConfiguration := by
  intro i s t h
  have hframe := exec_sameButControl h
  exact ⟨hframe.score.memRead_eq, hframe.score.1, hframe.score.2, hframe.speedPercent, hframe.speedScale, hframe.cfg,
    hframe.inputs, hframe.result⟩

/-! ### The commands -/

theorem getElem?_map_silence {l : List Channel} {c : Nat} {k : Channel} (h : l[c]? = some k) :
    (l.map Channel.silence)[c]? = some { k with active := false, pin := false } := by
  rw [List.getElem?_map, h, Option.map_some, Channel.silence_eq]

/-- Settles O9: the record is legal, and its effect starts the table's tone on one channel. -/
theorem setChannelPitchStartsToneOnItsChannelAlone : Obligations.SetChannelPitchStartsToneOnItsChannelAlone := by
  intro n p hp s hn hentry
  obtain ⟨hpitch, -⟩ := List.getElem?_eq_some_iff.1 hentry
  have hlegal : Instr.legal s.cfg (.setChannelPitch n p) = true := by simp [Instr.legal, hn, hpitch]
  have hhalf : halfPeriodFor s.cfg p = hp := by simp [halfPeriodFor, List.getD_eq_getElem?_getD, hentry]
  refine ⟨s.eng.chans.modify n.toNat (Channel.startTone hp), ?_, List.length_modify _ _ _,
    fun c k hk => getElem?_modify_of_some hk⟩
  rw [exec_legal hlegal, commandEffect, hhalf]
  rfl

/-- Settles O10: the record is legal, and its effect silences one channel. -/
theorem silenceChannelSilencesItsChannelAlone : Obligations.SilenceChannelSilencesItsChannelAlone := by
  intro n s hn
  have hlegal : Instr.legal s.cfg (.silenceChannel n) = true := by simp [Instr.legal, hn]
  exact ⟨s.eng.chans.modify n.toNat Channel.silence, exec_legal hlegal, List.length_modify _ _ _,
    fun c k hk => getElem?_modify_of_some hk⟩

/-- Settles O11: AdvanceTime is legal in every state, and nothing of ScaleDelay is cut off. -/
theorem advanceTimeLoadsTheScaledDelay : Obligations.AdvanceTimeLoadsTheScaledDelay := fun t s =>
  ⟨scaleDelay s.eng.speedScale t, exec_legal rfl, toNat_scaleDelay s.eng.speedScale t⟩

/-- Settles O12: EndOfScore is legal in every state and halts; a firing after it finds the timer disarmed. -/
theorem endOfScoreSilencesDisarmsAndStops : Obligations.EndOfScoreSilencesDisarmsAndStops := by
  intro s
  have hexec : exec .endOfScore s = .next (s.withEng (s.eng.advanceCursor 1).halt) := exec_legal rfl
  refine ⟨s.eng.chans.map Channel.silence, _, rfl, hexec, List.length_map _, fun c k hk => getElem?_map_silence hk,
    fun rest m hdec => ?lastPass, fun rest => ?noTick⟩
  case lastPass =>
    exact decodeLoop_succ_of_ends ((recordStep_of_decode_ok hdec).trans hexec) (passEndsLoop_of_decode_ok hdec _) m
  case noTick => exact step_of_disarmed stopped_ne_illegal (.inr rfl) rfl

/-! ### The records that raise DecodeError -/

/-- Settles O13: a reserved opcode is illegal under every configuration, and fail-stop silences every channel. -/
theorem reservedOpcodesRaiseDecodeError : Obligations.ReservedOpcodesRaiseDecodeError := by
  intro i b s hi
  have hillegal : i.legal s.cfg = false := by rcases hi with rfl | rfl | rfl <;> rfl
  refine ⟨s.eng.chans.map Channel.silence, ?_, List.length_map _, fun c k hk => getElem?_map_silence hk⟩
  rw [exec_illegal hillegal, raiseDecodeError_eq]

/-- Settles O14: a record whose channel or pitch does not exist is illegal, and fail-stop keeps the cursor. -/
theorem outOfRangeOperandsRaiseDecodeError : Obligations.OutOfRangeOperandsRaiseDecodeError := by
  refine fun n p s => ⟨fun h => ?pitch, fun h => ?silence, s.eng.failStop_cursor⟩
  case pitch =>
    have hillegal : Instr.legal s.cfg (.setChannelPitch n p) = false := by
      rcases h with h | h <;> simp [Instr.legal, h]
    exact exec_illegal hillegal
  case silence =>
    have hillegal : Instr.legal s.cfg (.silenceChannel n) = false := by simp [Instr.legal, h]
    exact exec_illegal hillegal

end Sys2Proof.Proofs
end

section
/-! PROOFS. The decode loop (R95, R96, R98): it ends within the score, a limit on its passes changes no effect, the
cursor only moves forward, and a due Tick runs it. -/

namespace Sys2Proof.Proofs

open Sys2Proof Sys2Proof.Machine

/-! ### Its passes -/

/-- A pass that does not end the loop moves the cursor forward, within the score. -/
theorem cursor_lt_of_goes_on {s t : State} (h : recordStep s = .next t) (hgo : passEndsLoop s t = false) :
    s.eng.cursor < t.eng.cursor ∧ s.eng.cursor < s.eng.scoreLen := by
  rcases recordStep_cases s with ⟨hraise, hends⟩ | ⟨i, tail, hdec, -, hrun⟩
  · cases hraise.symm.trans h
    simp [hends] at hgo
  · cases hrun.symm.trans h
    have hpos := List.length_pos_iff.2 (encode_ne_nil i)
    have hfits := cursor_add_length_le hdec
    simp only [State.withEng_eng, commandEffect_cursor, EngineState.advanceCursor_cursor]
    omega

/-- Each pass but the last takes a byte of the score, so the bytes left and one more pass are enough (R95). -/
theorem decodeLoop_ends {m : Nat} {s : State} (hm : s.eng.scoreLen - s.eng.cursor < m) :
    ∃ t, decodeLoop m s = .next t := by
  induction m generalizing s with
  | zero => omega
  | succ m ih =>
    obtain ⟨u, hu⟩ := recordStep_next s
    cases he : passEndsLoop s u with
    | true => exact ⟨u, decodeLoop_succ_of_ends hu he m⟩
    | false =>
      obtain ⟨hmoves, hinside⟩ := cursor_lt_of_goes_on hu he
      have hlen := (recordStep_sameScore hu).2
      obtain ⟨t, ht⟩ := ih (s := u) (by omega)
      exact ⟨t, (decodeLoop_succ_of_not_ends hu he m).trans ht⟩

theorem lt_passesAllowed {s : State} (h : s.cfg.maxRecordsPerTick = none) :
    s.eng.scoreLen - s.eng.cursor < passesAllowed s := by
  simp [passesAllowed, h]

/-- Settles O18: by induction on the passes, and a Tick without a limit gets that many. -/
theorem decodeLoopEndsWithinTheScore : Obligations.DecodeLoopEndsWithinTheScore :=
  ⟨fun _ _ => decodeLoop_ends, fun _ => lt_passesAllowed⟩

theorem decodeLoop_mono {m m' : Nat} {s t : State} (hm : m ≤ m') (h : decodeLoop m s = .next t) :
    decodeLoop m' s = .next t := by
  induction m generalizing s m' with
  | zero => cases h
  | succ m ih =>
    obtain ⟨n, rfl⟩ : ∃ n, m' = n + 1 := ⟨m' - 1, by omega⟩
    obtain ⟨u, hu⟩ := recordStep_next s
    cases he : passEndsLoop s u with
    | true => exact (decodeLoop_succ_of_ends hu he n).trans ((decodeLoop_succ_of_ends hu he m).symm.trans h)
    | false =>
      have hrest : decodeLoop n u = .next t := ih (by omega) ((decodeLoop_succ_of_not_ends hu he m).symm.trans h)
      exact (decodeLoop_succ_of_not_ends hu he n).trans hrest

/-- Settles O19: by induction on the passes; the limit is read off the configuration. -/
theorem recordLimitNeverChangesAnEffect : Obligations.RecordLimitNeverChangesAnEffect :=
  ⟨fun _ _ _ _ => decodeLoop_mono, fun _ _ h => by simp [passesAllowed, h]⟩

/-! ### The cursor -/

/-- A pass moves the cursor past a record that lies within the score, or keeps it (R96). -/
theorem recordStep_cursor {s t : State} (h : recordStep s = .next t) :
    s.eng.cursor ≤ t.eng.cursor ∧ t.eng.cursor ≤ max s.eng.cursor s.eng.scoreLen := by
  rcases recordStep_cases s with ⟨hraise, -⟩ | ⟨i, tail, hdec, -, hrun⟩
  · cases hraise.symm.trans h
    simp
  · cases hrun.symm.trans h
    have hfits := cursor_add_length_le hdec
    simp only [State.withEng_eng, commandEffect_cursor, EngineState.advanceCursor_cursor]
    omega

/-- Settles O20: service and countdown keep the cursor, and every pass keeps its bounds. -/
theorem cursorOnlyMovesForwardInATick : Obligations.CursorOnlyMovesForwardInATick := by
  intro s t h
  have hbounds : (s.eng.cursor ≤ t.eng.cursor ∧ t.eng.cursor ≤ max s.eng.cursor s.eng.scoreLen) ∧
      t.eng.scoreLen = s.eng.scoreLen := by
    refine tick_keeps (P := fun u => (s.eng.cursor ≤ u.eng.cursor ∧ u.eng.cursor ≤ max s.eng.cursor s.eng.scoreLen) ∧
      u.eng.scoreLen = s.eng.scoreLen) (fun u v hu hr => ?_) (by simp [serviced]) h
    have hmoves := recordStep_cursor hr
    have hlen := (recordStep_sameScore hr).2
    omega
  exact hbounds.1

/-! ### A due Tick -/

/-- A pass over a decoded record executes it, and the loop ends there or goes on (R95). -/
theorem decodeLoop_of_decode_ok {u t : State} {i : Instr} {tail : List Byte}
    (hdec : decode u.eng.recordBytes = .ok (i, tail)) (hexec : exec i u = .next t) (m : Nat) :
    decodeLoop (m + 1) u = if recordEndsLoop i t then .next t else decodeLoop m t := by
  simp [decodeLoop, recordStep_of_decode_ok hdec, hexec, passEndsLoop_of_decode_ok hdec]

theorem exec_next (i : Instr) (s : State) : ∃ t, exec i s = .next t := by
  rcases exec_cases i s with ⟨-, h⟩ | ⟨-, h⟩ <;> exact ⟨_, h⟩

theorem not_overdue_of_service {e f : EngineState} (h : e.serviceChannels = some f) :
    ∀ k ∈ e.chans, k.overdue = false := by
  rcases e.serviceChannels_cases with ⟨hn, -⟩ | ⟨-, hk⟩
  · cases hn.symm.trans h
  · exact hk

/-- A step with a Tick due is the decode loop from the serviced channels (R124, R125). -/
theorem step_of_due {s : State} {e : EngineState} {rest : List Input} (hp : s.eng.playbackState ≠ 3#2)
    (ha : s.eng.timerArmed = true) (hi : TimerFiresNext s rest) (he : s.eng.serviceChannels = some e)
    (hd : s.eng.eventDelay.toNat ≤ 1) {u : State}
    (hu : u = { s with inputs := rest, eng := { e with eventDelay := 0 } }) :
    step s = decodeLoop (passesAllowed u) u := by
  obtain ⟨h0, ht⟩ := tick_of_le_one (s := s.withInputs rest) (not_overdue_of_service he) hd
  have hserviced : serviced (s.withInputs rest) = u := by
    obtain rfl := serviceChannels_eq_some he
    have h0 : countdown s.eng.eventDelay = 0 := h0
    simp [hu, serviced, h0, State.withEng, State.withInputs]
  rw [step_of_armed hp hi ha, ht, hserviced]

/-- Settles O17: a due Tick is its decode loop, whose passes execute what the decoder reads, up to the record that ends
it. -/
theorem stepRunsTheDecodedRecord : Obligations.StepRunsTheDecodedRecord := by
  have hpass : ∀ (u : State) (i : Instr) (tail : List Byte) (m : Nat), decode u.eng.recordBytes = .ok (i, tail) →
      decodeLoop (m + 1) u = match exec i u with
        | .next t => if recordEndsLoop i t then .next t else decodeLoop m t
        | .fault f => .fault f
        | .refused r => .refused r := by
    intro u i tail m hdec
    obtain ⟨t, hexec⟩ := exec_next i u
    rw [decodeLoop_of_decode_ok hdec hexec, hexec]
  refine ⟨fun s u e i rest tail m hp ha hi he hd hu hdec hm => ?due, hpass,
    fun s u e rest hp ha hi he hd hu => step_of_due hp ha hi he hd hu,
    fun u t i tail m hdec hexec => ⟨fun hends => ?ends, fun hl hne hzero => ?goesOn⟩⟩
  case due => exact (step_of_due hp ha hi he hd hu).trans (hm ▸ hpass u i tail m hdec)
  all_goals
    rw [decodeLoop_of_decode_ok hdec hexec]
    have hcfg := (exec_sameButControl hexec).cfg
  case ends =>
    refine if_pos ((recordEndsLoop_iff i t).2 ?_)
    rw [hcfg]
    rcases hends with h | h | ⟨n, h, h0⟩
    · exact .inl h
    · exact .inr (.inl h)
    · exact .inr (.inr ⟨⟨n, h⟩, h0⟩)
  case goesOn =>
    refine if_neg fun hends => ?_
    rcases (recordEndsLoop_iff i t).1 hends with h | h | ⟨⟨n, h⟩, h0⟩
    · simp [hcfg, hl] at h
    · exact hne h
    · exact h0 (hzero n h)

end Sys2Proof.Proofs
end

section
/-! PROOFS. The Tick (R120 to R130): when it is delivered, its channel service and countdown, and what it leaves
unchanged. -/

namespace Sys2Proof.Proofs

open Sys2Proof Sys2Proof.Machine

/-- Settles O22: each channel after service is `Channel.service` of the channel before it. -/
theorem channelServiceIsIndependent : Obligations.ChannelServiceIsIndependent := by
  intro e₁ e₂ f₁ f₂ c h₁ h₂ hc
  rw [serviceChannels_eq_some h₁, serviceChannels_eq_some h₂]
  simp only [List.getElem?_map, hc]

/-- Settles O23: the countdown is not 0 after this Tick, so the Tick ends with the countdown. -/
theorem tickBeforeTheEventOnlyCountsDown : Obligations.TickBeforeTheEventOnlyCountsDown := by
  intro s e he hd
  refine ⟨countdown s.eng.eventDelay, ?_, (countdown_of_two_le hd).2⟩
  rw [tick_of_two_le (not_overdue_of_service he) hd, serviceChannels_eq_some he]
  rfl

/-- Settles O24: an armed timer delivers a Tick, and a disarmed one none. -/
theorem tickIsDeliveredExactlyWhenArmed : Obligations.TickIsDeliveredExactlyWhenArmed := by
  refine fun s hp => ⟨fun ha hi => ?alone, fun ha hi => ?waits, fun rest hi =>
    ⟨fun ha => step_of_armed hp (.inr hi) ha, fun ha => step_of_disarmed hp (.inr hi) ha⟩⟩
  all_goals have hsame : s.withInputs [] = s := by rw [← hi]; rfl
  case alone => rw [step_of_armed hp (.inl ⟨hi, rfl⟩) ha, hsame]
  case waits => rw [step_of_disarmed hp (.inl ⟨hi, rfl⟩) ha, hsame]

/-! ### The control registers -/

/-- `f` has the playback state, the timer and the error status of `e`. -/
def SameControl (e f : EngineState) : Prop :=
  f.playbackState = e.playbackState ∧ f.timerArmed = e.timerArmed ∧ f.errorStatus = e.errorStatus

/-- `f` is what EndOfScore or fail-stop leaves of `e`: stopped, disarmed and silent (R94, R174). -/
def StoppedFrom (e f : EngineState) : Prop :=
  f.playbackState = stopped ∧ f.timerArmed = false ∧ (f.errorStatus = e.errorStatus ∨ f.errorStatus = 2#2) ∧
    ∀ k ∈ f.chans, k.active = false ∧ k.pin = false

theorem commandEffect_sameControl (c : Config) {i : Instr} (h : i ≠ .endOfScore) (e : EngineState) :
    SameControl e (commandEffect c i e) := by
  cases i with
  | endOfScore => exact absurd rfl h
  | advanceTime t =>
    exact ⟨e.loadDelay_playbackState (scaleDelay e.speedScale t), e.loadDelay_timerArmed (scaleDelay e.speedScale t),
      e.loadDelay_errorStatus (scaleDelay e.speedScale t)⟩
  | _ => exact ⟨rfl, rfl, rfl⟩

theorem silent_of_chans_silenced {e f : EngineState} (h : f.chans = e.chans.map Channel.silence) :
    ∀ k ∈ f.chans, k.active = false ∧ k.pin = false := by
  intro k hk
  obtain ⟨j, -, rfl⟩ := List.mem_map.1 (h ▸ hk)
  exact ⟨j.silence_active, j.silence_pin⟩

/-- A pass keeps the control registers, or it is the last and stops. -/
theorem recordStep_control {s t : State} (h : recordStep s = .next t) :
    SameControl s.eng t.eng ∨ (passEndsLoop s t = true ∧ StoppedFrom s.eng t.eng) := by
  rcases recordStep_cases s with ⟨hraise, hends⟩ | ⟨i, tail, hdec, -, hrun⟩
  · cases hraise.symm.trans h
    exact .inr ⟨hends, rfl, rfl, .inr rfl, silent_of_chans_silenced s.eng.failStop_chans⟩
  · cases hrun.symm.trans h
    by_cases hi : i = .endOfScore
    · subst hi
      exact .inr ⟨passEndsLoop_of_decode_ok hdec _, rfl, rfl, .inl rfl,
        silent_of_chans_silenced (EngineState.halt_chans _)⟩
    · exact .inl (commandEffect_sameControl s.cfg hi (s.eng.advanceCursor (encode i).length))

theorem tick_control {s t : State} (h : tick s = .next t) : SameControl s.eng t.eng ∨ StoppedFrom s.eng t.eng := by
  refine tick_keeps_or_ends (P := fun u => SameControl s.eng u.eng) (R := fun u => StoppedFrom s.eng u.eng)
    (fun u v ⟨hstate, htimer, herror⟩ hr => ?_) ⟨rfl, rfl, rfl⟩ h
  rcases recordStep_control hr with ⟨hstate', htimer', herror'⟩ | ⟨hends, hstopped, hdisarmed, herror', hsilent⟩
  · exact .inl ⟨hstate'.trans hstate, htimer'.trans htimer, herror'.trans herror⟩
  · exact .inr ⟨hends, hstopped, hdisarmed, herror ▸ herror', hsilent⟩

theorem recordStep_sameButControl {s t : State} (h : recordStep s = .next t) : SameButControl s t := by
  unfold recordStep at h
  split at h
  · exact exec_sameButControl h
  · cases h
    exact sameButControl_raiseDecodeError s

theorem tick_sameButControl {s t : State} (h : tick s = .next t) : SameButControl s t :=
  tick_keeps (P := SameButControl s) (fun _ _ hu hr => hu.trans (recordStep_sameButControl hr))
    ⟨⟨rfl, rfl⟩, rfl, rfl, rfl, rfl, rfl⟩ h

/-- Settles O25: what each pass leaves unchanged, and the control registers it writes together. -/
theorem tickChangesControlOnlyByStopping : Obligations.TickChangesControlOnlyByStopping := by
  intro s t h
  have hframe := tick_sameButControl h
  exact ⟨hframe.speedPercent, hframe.speedScale, hframe.score.1, hframe.score.2, hframe.inputs, hframe.result,
    tick_control h⟩

/-! ### Channel service, n times -/

/-- One more service, at the end. -/
theorem serviced_succ (n : Nat) (k : Channel) : Channel.serviced (n + 1) k = (Channel.serviced n k).service := by
  induction n generalizing k with
  | zero => rfl
  | succ n ih => exact ih k.service

theorem toggles_succ (n : Nat) (k : Channel) :
    Channel.toggles (n + 1) k =
      Channel.toggles n k + ((Channel.serviced n k).service.pin ^^ (Channel.serviced n k).pin).toNat := by
  induction n generalizing k with
  | zero => simp [Channel.toggles, Channel.serviced]
  | succ n ih =>
    rw [Channel.toggles, ih k.service, Channel.toggles, Nat.add_assoc]
    rfl

/-- What `n` services leave of an active channel `k` whose counter was full: it is at phase `n % hp`, and has toggled
`n / hp` times (R127, R128). -/
structure AtPhase (k : Channel) (n : Nat) (j : Channel) : Prop where
  active : j.active = true
  halfPeriod : j.halfPeriodTicks = k.halfPeriodTicks
  counter : j.ticksRemaining.toNat = k.halfPeriodTicks.toNat - n % k.halfPeriodTicks.toNat
  pin : j.pin = (k.pin ^^ decide (n / k.halfPeriodTicks.toNat % 2 = 1))

theorem succ_div_mod_of_last {n hp : Nat} (hpos : 0 < hp) (h : n % hp + 1 = hp) :
    (n + 1) / hp = n / hp + 1 ∧ (n + 1) % hp = 0 := by
  have hn := Nat.div_add_mod n hp
  exact (Nat.div_mod_unique hpos).2 ⟨by rw [Nat.mul_add]; omega, hpos⟩

theorem succ_div_mod_of_not_last {n hp : Nat} (h : n % hp + 1 < hp) :
    (n + 1) / hp = n / hp ∧ (n + 1) % hp = n % hp + 1 := by
  have hn := Nat.div_add_mod n hp
  exact (Nat.div_mod_unique (by omega)).2 ⟨by omega, h⟩

theorem decide_odd_succ (q : Nat) : decide ((q + 1) % 2 = 1) = !decide (q % 2 = 1) := by
  rcases Nat.mod_two_eq_zero_or_one q with h | h <;> simp [h, Nat.add_mod]

/-- One more service moves the phase by one, and toggles exactly where the quotient `n / hp` grows. -/
theorem AtPhase.service {k j : Channel} {n : Nat} (hpos : 1 ≤ k.halfPeriodTicks.toNat) (h : AtPhase k n j) :
    AtPhase k (n + 1) j.service ∧
      n / k.halfPeriodTicks.toNat + (j.service.pin ^^ j.pin).toNat = (n + 1) / k.halfPeriodTicks.toNat := by
  obtain ⟨hactive, hhalf, hcounter, hpin⟩ := h
  have hphase := Nat.mod_lt n hpos
  by_cases hlast : n % k.halfPeriodTicks.toNat + 1 = k.halfPeriodTicks.toNat
  · obtain ⟨hdiv, hmod⟩ := succ_div_mod_of_last hpos hlast
    rw [Channel.service_toggles hactive (by omega), hdiv]
    refine ⟨⟨hactive, hhalf, by simp [hhalf, hmod], ?_⟩, by simp⟩
    rw [hdiv, decide_odd_succ, hpin, Bool.xor_not]
  · obtain ⟨hdiv, hmod⟩ := succ_div_mod_of_not_last (n := n) (hp := k.halfPeriodTicks.toNat) (by omega)
    rw [Channel.service_counts hactive (by omega), hdiv]
    refine ⟨⟨hactive, hhalf, ?_, by rw [hdiv]; exact hpin⟩, by simp⟩
    rw [hmod]
    simp only
    bv_omega

theorem serviced_atPhase {k : Channel} (ha : k.active = true) (hpos : 1 ≤ k.halfPeriodTicks.toNat)
    (hfull : k.ticksRemaining = k.halfPeriodTicks) (n : Nat) : AtPhase k n (Channel.serviced n k) := by
  induction n with
  | zero => exact ⟨ha, rfl, by simp [Channel.serviced, hfull], by simp [Channel.serviced]⟩
  | succ n ih => exact serviced_succ n k ▸ (ih.service hpos).1

theorem toggles_eq_div {k : Channel} (ha : k.active = true) (hpos : 1 ≤ k.halfPeriodTicks.toNat)
    (hfull : k.ticksRemaining = k.halfPeriodTicks) (n : Nat) : Channel.toggles n k = n / k.halfPeriodTicks.toNat := by
  induction n with
  | zero => simp [Channel.toggles]
  | succ n ih => rw [toggles_succ, ih, ((serviced_atPhase ha hpos hfull n).service hpos).2]

/-- Settles O28: each service toggles exactly where the quotient grows. -/
theorem serviceTogglesFloorDOverHpTimes : Obligations.ServiceTogglesFloorDOverHpTimes := by
  intro k d ha hpos hfull
  have hcount := toggles_eq_div ha hpos hfull d
  exact ⟨hcount, hcount ▸ (serviced_atPhase ha hpos hfull d).pin⟩

/-! ### Runs of Ticks before the event -/

/-- `t` is what `n` Ticks before the event leave of `s`: the countdown is `n` less, and each channel has been serviced
`n` times (R124). -/
structure CountedDown (s : State) (n : Nat) (t : State) : Prop where
  inv : EngineInv t
  playing : t.eng.playbackState = playing
  inputs : t.inputs = []
  cursor : t.eng.cursor = s.eng.cursor
  errorStatus : t.eng.errorStatus = s.eng.errorStatus
  delay : t.eng.eventDelay.toNat = s.eng.eventDelay.toNat - n
  chans : t.eng.chans = s.eng.chans.map (Channel.serviced n)

/-- A playing engine with nothing listed takes a Tick. -/
theorem step_of_playing {s : State} (h : EngineInv s) (hp : s.eng.playbackState = playing) (hi : s.inputs = []) :
    step s = tick s := by
  have hsame : s.withInputs [] = s := by rw [← hi]; rfl
  rw [step_of_armed h.state (.inl ⟨hi, rfl⟩) (h.timer.2 hp), hsame]

theorem CountedDown.succ {s t : State} {n : Nat} (h : CountedDown s n t) (hn : n + 1 < s.eng.eventDelay.toNat) :
    step t = .next (serviced t) ∧ CountedDown s (n + 1) (serviced t) := by
  have hd : 2 ≤ t.eng.eventDelay.toNat := by have := h.delay; omega
  have hstep : step t = .next (serviced t) :=
    (step_of_playing h.inv h.playing h.inputs).trans (tick_of_two_le (not_overdue_of_inv h.inv) hd)
  refine ⟨hstep, step_inv h.inv hstep, h.playing, h.inputs, h.cursor, h.errorStatus, ?delay, ?chans⟩
  case delay =>
    have hcount : (serviced t).eng.eventDelay.toNat + 1 = t.eng.eventDelay.toNat := (countdown_of_two_le hd).2
    have := h.delay
    omega
  case chans =>
    calc t.eng.chans.map Channel.service
      _ = (s.eng.chans.map (Channel.serviced n)).map Channel.service := by rw [h.chans]
      _ = s.eng.chans.map (Channel.serviced (n + 1)) := by simp [serviced_succ]

/-- The Ticks before the event all complete. -/
theorem runSteps_before_event {s : State} (h : EngineInv s) (hp : s.eng.playbackState = playing) (hi : s.inputs = [])
    {n : Nat} (hn : n < s.eng.eventDelay.toNat) : ∃ t, runSteps n s = .next t ∧ CountedDown s n t := by
  induction n with
  | zero => exact ⟨s, rfl, h, hp, hi, rfl, rfl, rfl, (List.map_id s.eng.chans).symm⟩
  | succ n ih =>
    obtain ⟨t, hrun, ht⟩ := ih (by omega)
    obtain ⟨hstep, hsucc⟩ := ht.succ hn
    exact ⟨serviced t, (runSteps_add hrun).trans (runSteps_next hstep), hsucc⟩

/-- Settles O26: the Ticks before the event only count down, and the next one runs the decode loop. -/
theorem countdownOfDTicksDecodesInTickD : Obligations.CountdownOfDTicksDecodesInTickD := by
  intro s h hp hi hd
  refine ⟨fun n hn => ?before, ?event⟩
  case before =>
    obtain ⟨t, hrun, ht⟩ := runSteps_before_event h hp hi hn
    exact ⟨t, hrun, ht.delay, ht.cursor, ht.playing, ht.errorStatus⟩
  case event =>
    obtain ⟨t, hrun, ht⟩ := runSteps_before_event h hp hi (n := s.eng.eventDelay.toNat - 1) (by omega)
    have hdue : t.eng.eventDelay.toNat ≤ 1 := by have := ht.delay; omega
    obtain ⟨hzero, htick⟩ := tick_of_le_one (not_overdue_of_inv ht.inv) hdue
    exact ⟨t, serviced t, hrun, (step_of_playing ht.inv ht.playing ht.inputs).trans htick, ht.cursor, hzero, rfl⟩

/-- Settles O27: after `n` Ticks before the event the channel has been serviced `n` times. -/
theorem channelKeepsItsPhaseOverTicks : Obligations.ChannelKeepsItsPhaseOverTicks := by
  intro s c k n h hp hi hk ha hfull hn
  obtain ⟨t, hrun, ht⟩ := runSteps_before_event h hp hi hn
  have hpos : 1 ≤ k.halfPeriodTicks.toNat := by
    obtain ⟨-, hactive⟩ := h.counters k (List.mem_of_getElem? hk)
    exact hfull ▸ BitVec.le_def.1 (hactive ha).1
  have hphase := serviced_atPhase ha hpos hfull n
  exact ⟨t, Channel.serviced n k, hrun, by rw [ht.chans, List.getElem?_map, hk]; rfl, hphase.active, hphase.halfPeriod,
    hphase.counter, hphase.pin⟩

end Sys2Proof.Proofs
end

section
/-! PROOFS. The host operations (R140 to R147): what each one answers and writes. -/

namespace Sys2Proof.Proofs

open Sys2Proof Sys2Proof.Machine

theorem isPlaying_eq_false_iff {e : EngineState} : e.isPlaying = false ↔ e.playbackState ≠ playing := by
  simp [EngineState.isPlaying]

/-! ### playScore, stopScore, teardown -/

/-- `playScore` of an operand within R141's bound starts a playback when not Playing. -/
theorem hostOp_playScore_of_not_playing {bytes : List Byte} {s : State} (hp : s.eng.playbackState ≠ playing)
    (hlen : bytes.length ≤ 2 ^ s.cfg.addrBits) :
    hostOp (.playScore (some bytes)) s = .next ((s.withEng (s.eng.startPlayback bytes)).answer (.code .ok)) := by
  simp [hostOp, playScore, isPlaying_eq_false_iff.2 hp, hlen]

/-- Settles O30: the started playback has every channel cleared and reads the buffer. -/
theorem playScoreStartsPlayback : Obligations.PlayScoreStartsPlayback := by
  intro bytes s hp hlen
  refine ⟨s.eng.chans.map Channel.clear, Memory.ofBytes bytes, _, rfl, hostOp_playScore_of_not_playing hp hlen,
    s.eng.memRead_startPlayback bytes, List.length_map _, fun k hk => ?_⟩
  obtain ⟨j, -, rfl⟩ := List.mem_map.1 hk
  rfl

/-- Stopping twice is stopping once (S8). -/
theorem stopPlayback_stopPlayback (e : EngineState) : e.stopPlayback.stopPlayback = e.stopPlayback := by
  have hchans : (e.chans.map Channel.silence).map Channel.silence = e.chans.map Channel.silence := by
    simp [Function.comp_def, Channel.silence_silence]
  have hstate : e.stopPlayback.isPlaying = false := by
    rw [isPlaying_eq_false_iff, EngineState.stopPlayback_playbackState]
    split
    · exact stopped_ne_playing
    · next hp => exact isPlaying_eq_false_iff.1 (by simpa using hp)
  rw [EngineState.stopPlayback.eq_def e.stopPlayback, hstate]
  simp [EngineState.stopPlayback, EngineState.silenceAll, EngineState.rewind, hchans]

/-- Settles O31: `stopScore` has no condition, and a second one finds what the first left. -/
theorem stopScoreSilencesAndIsIdempotent : Obligations.StopScoreSilencesAndIsIdempotent := by
  refine fun s => ⟨s.eng.chans.map Channel.silence, _, rfl, ?result, List.length_map _,
    fun c k hk => getElem?_map_silence hk, ?again⟩
  case result => simp [State.answer, State.withEng, EngineState.stopPlayback, EngineState.silenceAll,
    EngineState.rewind, EngineState.isPlaying]
  case again => simp [hostOp, stopScore, State.answer, State.withEng, stopPlayback_stopPlayback]

/-- Settles O36: `teardown` has no condition. -/
theorem teardownGoesToIdle : Obligations.TeardownGoesToIdle := fun s =>
  ⟨s.eng.chans.map Channel.silence, rfl, List.length_map _, fun _ _ hk => getElem?_map_silence hk⟩

/-! ### setSpeed and ScaleDelay -/

/-- Settles O32: an accepted percent fits its register, and so does its factor. -/
theorem setSpeedWritesTheTempoAlone : Obligations.SetSpeedWritesTheTempoAlone := by
  refine fun percent s h1 h2 =>
    ⟨BitVec.ofNat 16 percent, speedScaleFor percent, ?_, by simp; omega, toNat_speedScaleFor percent⟩
  have haccepted : speedAccepted percent = true := by simp [speedAccepted, h1, h2]
  simp only [hostOp, setSpeed, haccepted, if_true]
  rfl

/-- Settles O38: ScaleDelay as a number, at the factors 65536 and 32768 and at any factor of a percent. -/
theorem scaleDelayAtNominalAndDoubleSpeed : Obligations.ScaleDelayAtNominalAndDoubleSpeed := by
  have hscale : ∀ (percent : Nat) (t : BitVec 16), (scaleDelay (speedScaleFor percent) t).toNat =
      (t.toNat * (6553600 / percent) + 32768) / 65536 := fun percent t => by
    rw [toNat_scaleDelay, toNat_speedScaleFor]
  refine fun t => ⟨?nominal, ?double, fun percent _ _ => ⟨hscale percent t, ?bound⟩⟩
  case nominal => rw [hscale]; omega
  case double => rw [hscale]; omega
  case bound => exact toNat_scaleDelay_le (toNat_speedScaleFor percent ▸ Nat.div_le_self _ _) t

/-! ### status -/

/-- Settles O35: `status` answers the register and writes nothing else. -/
theorem statusReadsDecodeErrorWithoutClearing : Obligations.StatusReadsDecodeErrorWithoutClearing := by
  refine ⟨fun s => rfl, fun s t h => ?_⟩
  cases h
  exact ⟨rfl, rfl, rfl⟩

/-! ### One operation, one step -/

theorem step_of_illegal {s : State} (h : s.eng.playbackState = 3#2) : step s = .fault .invariantViolation := by
  rcases step_cases s with ⟨-, hf⟩ | ⟨hp, -⟩
  · exact hf
  · exact absurd h hp

/-- Settles O37: the two cases of a step that are no firing of the timer. -/
theorem hostOperationIsOneStep : Obligations.HostOperationIsOneStep :=
  ⟨fun _ _ _ hp hi => step_of_host hp hi, fun _ h => step_of_illegal h⟩

/-- Settles O51: an operation that writes the engine answers code 0. -/
theorem rejectedOperationsChangeNoState : Obligations.RejectedOperationsChangeNoState := by
  intro s t op c h hc hcode
  have not_ok : t.result ≠ some (.code .ok) := fun hok => by
    obtain rfl : c = .ok := by simpa [hc] using hok
    revert hcode
    decide
  obtain ⟨-, -, he | ⟨_, -, -, -, -, hok⟩ | ⟨-, -, hok⟩ | ⟨_, -, -, -, -, hok⟩ | ⟨-, -, hok⟩⟩ := hostOp_cases h
  · exact he
  all_goals exact absurd hok not_ok

end Sys2Proof.Proofs
end

section
/-! PROOFS. The configuration (R6 to R13, R110 to R112, R160, R171): which one is refused, and what an accepted one's
period table is. -/

namespace Sys2Proof.Proofs

open Sys2Proof Sys2Proof.Machine

/-- A pairwise relation, entry by entry. -/
theorem pairwise_iff_getElem? {α : Type} {R : α → α → Prop} {l : List α} :
    l.Pairwise R ↔ ∀ (i j : Nat) (a b : α), i < j → l[i]? = some a → l[j]? = some b → R a b := by
  rw [List.pairwise_iff_getElem]
  constructor
  · intro h i j a b hij ha hb
    obtain ⟨hi, rfl⟩ := List.getElem?_eq_some_iff.1 ha
    obtain ⟨hj, rfl⟩ := List.getElem?_eq_some_iff.1 hb
    exact h i j hi hj hij
  · exact fun h i j hi hj hij => h i j _ _ hij (List.getElem?_eq_getElem hi) (List.getElem?_eq_getElem hj)

/-- R112 condition 1, entry by entry. -/
theorem entriesOk_iff {c : Config} : c.entriesOk ↔ ∀ p : Nat, c.periodTable[p]? ≠ some 0#32 := by
  have hpos : ∀ hp : U32, decide (1#32 ≤ hp) = true ↔ hp ≠ 0#32 := fun hp => by
    rw [decide_eq_true_iff]
    constructor <;> intro h <;> bv_omega
  simp only [Config.entriesOk, List.all_eq_true, hpos]
  constructor
  · exact fun h p hp => h _ (List.mem_of_getElem? hp) rfl
  · rintro h hp hmem rfl
    obtain ⟨p, hp⟩ := List.mem_iff_getElem?.1 hmem
    exact h p hp

/-- R112 condition 2, entry by entry. -/
theorem decreasing_iff {c : Config} : c.decreasing ↔ ∀ (p q : Nat) (hp hq : U32), p < q →
    c.periodTable[p]? = some hp → c.periodTable[q]? = some hq → hq.toNat < hp.toNat :=
  pairwise_iff_getElem?

/-- R160: two channels drive two distinct lines. -/
theorem pinMap_nodup_iff {c : Config} : c.pinMap.Nodup ↔ ∀ (i j : Nat) (line : Nat), i < j →
    c.pinMap[i]? = some line → c.pinMap[j]? ≠ some line := by
  rw [List.Nodup, pairwise_iff_getElem?]
  constructor
  · exact fun h i j line hij hi hj => h i j line line hij hi hj rfl
  · rintro h i j line _ hij hi hj rfl
    exact h i j line hij hi hj

/-- Settles O33: the two rejected operations, and a configuration whose pin map is ill-formed is. -/
theorem configErrorsAreRejectedUnchanged : Obligations.ConfigErrorsAreRejectedUnchanged := by
  refine ⟨fun percent s h => ?speed, fun s hp => ?null, fun c => construct_of_not_wf, fun c hpins => ?pins⟩
  case speed =>
    have hrefused : speedAccepted percent = false := by simp [speedAccepted]; omega
    simp [hostOp, setSpeed, hrefused, State.answer]
  case null => simp [hostOp, playScore, isPlaying_eq_false_iff.2 hp, State.answer]
  case pins =>
    refine construct_of_not_wf fun ⟨_, _, _, _, hlen, hnodup⟩ => ?_
    rcases hpins with h | ⟨i, j, line, hij, hi, hj⟩
    · exact h hlen
    · exact pinMap_nodup_iff.1 hnodup i j line hij hi hj

/-- A strictly decreasing table falls by at least 1 at each entry. -/
theorem entry_add_index_le {c : Config} (hdec : c.decreasing) {h0 : U32} (hfirst : c.periodTable[0]? = some h0) (p : Nat)
    {hp : U32} (hentry : c.periodTable[p]? = some hp) : hp.toNat + p ≤ h0.toNat := by
  induction p generalizing hp with
  | zero =>
    obtain rfl := Option.some.inj (hentry.symm.trans hfirst)
    exact Nat.le_refl _
  | succ p ih =>
    obtain ⟨hlt, -⟩ := List.getElem?_eq_some_iff.1 hentry
    have hprev : c.periodTable[p]? = some c.periodTable[p] := List.getElem?_eq_getElem (by omega)
    have hfalls := decreasing_iff.1 hdec p (p + 1) _ _ (Nat.lt_succ_self p) hprev hentry
    have := ih hprev
    omega

theorem one_le_entry {c : Config} (hentries : c.entriesOk) {p : Nat} {hp : U32} (hentry : c.periodTable[p]? = some hp) :
    1 ≤ hp.toNat := by
  have hne : hp ≠ 0#32 := fun hz => entriesOk_iff.1 hentries p (hz ▸ hentry)
  bv_omega

/-- A table without 0 that strictly decreases is no longer than its first entry: its last one is at least 1. -/
theorem numPitches_le_first {c : Config} (hone : 1 ≤ c.numPitches) (hentries : c.entriesOk) (hdec : c.decreasing)
    {h0 : U32} (hfirst : c.periodTable[0]? = some h0) : c.numPitches ≤ h0.toNat := by
  have hlast := List.getElem?_eq_getElem (l := c.periodTable) (Nat.sub_lt hone Nat.one_pos)
  have hpos := one_le_entry hentries hlast
  have hindex := entry_add_index_le hdec hfirst _ hlast
  have hcount : c.periodTable.length - 1 + 1 = c.numPitches := Nat.sub_add_cancel hone
  omega

/-- Settles O52: R112's conditions entry by entry, and the pin map's; with the counts they are `Config.wf`. -/
theorem periodTablesStrictlyDecreaseOrAreRefused : Obligations.PeriodTablesStrictlyDecreaseOrAreRefused := by
  refine fun c => ⟨?wellFormed, ?defect, ?accepted⟩
  case wellFormed =>
    rintro ⟨-, ⟨hone, -⟩, hentries, hdec, -⟩
    refine ⟨fun p q hp hq hpq hpe hqe => ?_, fun h0 => numPitches_le_first hone hentries hdec⟩
    exact ⟨one_le_entry hentries hqe, decreasing_iff.1 hdec p q hp hq hpq hpe hqe⟩
  case defect =>
    refine fun hdefect => construct_of_not_wf ?_
    rintro ⟨hchans, hpitches, hentries, hdec, -⟩
    rcases hdefect with ⟨p, hp⟩ | ⟨p, q, hp, hq, hpq, hpe, hqe, hle⟩ | hcounts
    · exact entriesOk_iff.1 hentries p hp
    · exact Nat.not_lt.2 hle (decreasing_iff.1 hdec p q hp hq hpq hpe hqe)
    · omega
  case accepted =>
    intro hc1 hc16 hp1 hp256 hne hfalls hlines hdistinct
    exact ⟨_, construct_of_wf ⟨⟨hc1, hc16⟩, ⟨hp1, hp256⟩, entriesOk_iff.2 hne, decreasing_iff.2 hfalls, hlines,
      pinMap_nodup_iff.2 hdistinct⟩⟩

end Sys2Proof.Proofs
end

section
/-! PROOFS. Steps that stop (R182, R193), the transitions of `playbackState` (R148) and the timer requests (R149). -/

namespace Sys2Proof.Proofs

open Sys2Proof Sys2Proof.Machine

/-! ### Where a step stops -/

/-- Under the invariant a Tick is not delivered to an overdue channel, and its loop is refused only under a limit. -/
theorem tick_outcome {s : State} (h : EngineInv s) :
    (∃ t, tick s = .next t) ∨ (tick s = .refused .tickOverrun ∧ s.cfg.maxRecordsPerTick ≠ none) := by
  rcases tick_cases s with ⟨-, k, hk, ho⟩ | ⟨u, rfl, -, ⟨-, hn⟩ | ⟨-, hd⟩⟩
  · simp [not_overdue_of_inv h k hk] at ho
  · exact .inl ⟨_, hn⟩
  · rw [hd]
    rcases decodeLoop_outcome (passesAllowed (serviced s)) (serviced s) with ht | hr
    · exact .inl ht
    · refine .inr ⟨hr, fun hnone => ?_⟩
      obtain ⟨t, ht⟩ := decodeLoop_ends (lt_passesAllowed (s := serviced s) hnone)
      cases hr.symm.trans ht

/-- Settles O44: the outcomes of a Tick and of a host operation. -/
theorem stepStopsOnlyWhereDeclared : Obligations.StepStopsOnlyWhereDeclared := by
  intro s h
  rcases step_cases s with ⟨h3, -⟩ | ⟨hp, ⟨rest, hi, -⟩ | ⟨op, rest, hi, hs⟩⟩
  · exact absurd h3 h.state
  · cases ha : s.eng.timerArmed with
    | false => exact .inl ⟨_, step_of_disarmed hp hi ha⟩
    | true =>
      rw [step_of_armed hp hi ha]
      exact (tick_outcome (h.of_eng_eq (t := s.withInputs rest) rfl rfl)).imp_right .inl
  · rw [hs]
    rcases hostOp_outcome op (s.withInputs rest) with ht | ⟨hr, hplay, bytes, rfl, hlong⟩
    · exact .inl ht
    · exact .inr (.inr ⟨hr, hplay, bytes, rest, hi, hlong⟩)

/-! ### The playback state -/

/-- R148, for one host operation. -/
theorem hostOp_playbackState {op : HostOp} {s t : State} (h : hostOp op s = .next t) :
    t.eng.playbackState = s.eng.playbackState ∨
      (s.eng.playbackState = playing ∧ t.eng.playbackState = stopped ∧ op = .stopScore) ∨
      (s.eng.playbackState ≠ playing ∧ t.eng.playbackState = playing ∧ ∃ bytes, op = .playScore (some bytes)) ∨
      (t.eng.playbackState = idle ∧ op = .teardown) := by
  obtain ⟨-, -, he | ⟨bytes, rfl, hp, -, he, -⟩ | ⟨rfl, he, -⟩ | ⟨percent, -, -, -, he, -⟩ | ⟨rfl, he, -⟩⟩ :=
    hostOp_cases h <;> rw [he]
  · exact .inl rfl
  · exact .inr (.inr (.inl ⟨isPlaying_eq_false_iff.1 hp, s.eng.startPlayback_playbackState bytes, bytes, rfl⟩))
  · rw [EngineState.stopPlayback_playbackState]
    split
    · next hp => exact .inr (.inl ⟨isPlaying_eq_true_iff.1 hp, rfl, rfl⟩)
    · exact .inl rfl
  · exact .inl (s.eng.writeSpeed_playbackState percent)
  · exact .inr (.inr (.inr ⟨s.eng.tearDown_playbackState, rfl⟩))

/-- Settles O48: a delivered Tick keeps the state or stops the playback it finds; a host operation moves along its own
rows. -/
theorem playbackStateMovesOnlyAlongTheTable : Obligations.PlaybackStateMovesOnlyAlongTheTable := by
  refine fun s t h hs => ⟨(step_inv h hs).timer, ?_⟩
  obtain ⟨-, ⟨rest, hi, ha, ht⟩ | ⟨rest, -, -, rfl⟩ | ⟨op, rest, hi, ho⟩⟩ := step_next_cases hs
  · rcases tick_control ht with ⟨hsame, -, -⟩ | ⟨hstopped, -⟩
    · exact .inl hsame
    · exact .inr (.inl ⟨h.timer.1 ha, hstopped, fun _ _ hhost => absurd hhost hi.not_host⟩)
  · exact .inl rfl
  · rcases hostOp_playbackState ho with hsame | ⟨hp, hstopped, rfl⟩ | ⟨hp, hplaying, bytes, rfl⟩ | ⟨hidle, rfl⟩
    · exact .inl hsame
    · refine .inr (.inl ⟨hp, hstopped, fun op rest' hi' => ?_⟩)
      simpa [eq_comm] using (List.cons.inj (hi.symm.trans hi')).1
    · exact .inr (.inr (.inl ⟨hp, hplaying, bytes, rest, hi⟩))
    · exact .inr (.inr (.inr ⟨hidle, rest, hi⟩))

/-! ### The timer requests -/

theorem timerRequest_start_iff {s t : State} : timerRequest s t = some (.startTimer s.cfg.tickHz) ↔
    s.eng.timerArmed ≠ true ∧ t.eng.timerArmed = true := by
  unfold timerRequest
  split <;> simp [*]

theorem timerRequest_stop_iff {s t : State} : timerRequest s t = some .stopTimer ↔
    s.eng.timerArmed = true ∧ t.eng.timerArmed ≠ true := by
  unfold timerRequest
  split <;> simp [*]

/-- Settles O50: the requests are the edges of `timerArmed`, which is Playing before and after the step (R30). -/
theorem timerRequestsFollowPlaying : Obligations.TimerRequestsFollowPlaying := by
  intro s t h hs
  have hbefore : s.eng.timerArmed = true ↔ s.eng.playbackState = playing := h.timer
  have hafter : t.eng.timerArmed = true ↔ t.eng.playbackState = playing := (step_inv h hs).timer
  simp only [timerRequest_start_iff, timerRequest_stop_iff, ne_eq, hbefore, hafter, and_self]

end Sys2Proof.Proofs
end

section
/-! PROOFS. What no step reads (R9, R23, R120, R160): the levels of the lines, the tick rate and the pin map. Both are
forgotten by one kind of function, which rewrites the configuration and each channel; what such a function has to leave
readable is `Unread`, and under it every step does the same. -/

namespace Sys2Proof.Proofs

open Sys2Proof Sys2Proof.Machine

/-! ### Forgetting -/

/-- The engine with each channel rewritten. -/
def forgetEng (g : Channel → Channel) (e : EngineState) : EngineState := { e with chans := e.chans.map g }

/-- The machine with its configuration and each of its channels rewritten. -/
def forget (gc : Config → Config) (g : Channel → Channel) (s : State) : State :=
  { s with cfg := gc s.cfg, eng := forgetEng g s.eng }

/-- What `gc` and `g` forget is read by no rule: the parameters that the rules read are left, and each operation on a
channel gives the same, up to what is forgotten, whether it was forgotten before or not. -/
structure Unread (gc : Config → Config) (g : Channel → Channel) : Prop where
  maxChans : ∀ c, (gc c).maxChans = c.maxChans
  periodTable : ∀ c, (gc c).periodTable = c.periodTable
  addrBits : ∀ c, (gc c).addrBits = c.addrBits
  maxRecordsPerTick : ∀ c, (gc c).maxRecordsPerTick = c.maxRecordsPerTick
  cfg : ∀ c, gc (gc c) = gc c
  chan : ∀ k, g (g k) = g k
  overdue : ∀ k, (g k).overdue = k.overdue
  service : ∀ k, g (g k).service = g k.service
  startTone : ∀ hp k, g ((g k).startTone hp) = g (k.startTone hp)
  silence : ∀ k, g (g k).silence = g k.silence
  clear : ∀ k, g (g k).clear = g k.clear

/-- `r` does the same, up to what `F` forgets, whether it was forgotten before or not. -/
def Blind (F : State → State) (r : State → Result) : Prop := ∀ s, mapNext F (r (F s)) = mapNext F (r s)

theorem Blind.congr {F : State → State} {r : State → Result} (h : Blind F r) {s s' : State} (hs : F s' = F s) :
    mapNext F (r s') = mapNext F (r s) := by
  rw [← h s', hs, h s]

theorem mapNext_congr {F : State → State} {t t' : State} (h : F t' = F t) :
    mapNext F (.next t') = mapNext F (.next t) :=
  congrArg Host.Outcome.next h

/-! ### The engine's operations -/

theorem map_map_self {g : Channel → Channel} (h : ∀ k, g (g k) = g k) (l : List Channel) :
    (l.map g).map g = l.map g := by
  simp [Function.comp_def, h]

theorem map_forget {g f : Channel → Channel} (h : ∀ k, g (f (g k)) = g (f k)) (l : List Channel) :
    ((l.map g).map f).map g = (l.map f).map g := by
  simp [Function.comp_def, h]

theorem modify_forget {g f : Channel → Channel} (hg : ∀ k, g (g k) = g k) (h : ∀ k, g (f (g k)) = g (f k))
    (l : List Channel) (n : Nat) : ((l.map g).modify n f).map g = (l.modify n f).map g := by
  apply List.ext_getElem?
  intro c
  simp only [List.getElem?_map, List.getElem?_modify]
  cases l[c]? with
  | none => rfl
  | some k => by_cases hc : n = c <;> simp [hc, hg, h]

section UnreadRules

variable {gc : Config → Config} {g : Channel → Channel} (hU : Unread gc g)
include hU

theorem forgetEng_forgetEng (e : EngineState) : forgetEng g (forgetEng g e) = forgetEng g e := by
  simp only [forgetEng, map_map_self hU.chan]

theorem loadDelay_forget (e : EngineState) (d : U32) :
    forgetEng g ((forgetEng g e).loadDelay d) = forgetEng g (e.loadDelay d) :=
  forgetEng_forgetEng hU (e.loadDelay d)

theorem commandEffect_forget (c : Config) (i : Instr) (e : EngineState) :
    forgetEng g (commandEffect (gc c) i (forgetEng g e)) = forgetEng g (commandEffect c i e) := by
  cases i with
  | setChannelPitch n p =>
    have hhalf : halfPeriodFor (gc c) p = halfPeriodFor c p := by simp only [halfPeriodFor, hU.periodTable]
    simp only [commandEffect, forgetEng, EngineState.onChannel, hhalf, modify_forget hU.chan (hU.startTone _)]
  | silenceChannel n => simp only [commandEffect, forgetEng, EngineState.onChannel, modify_forget hU.chan hU.silence]
  | advanceTime t => exact loadDelay_forget hU e (scaleDelay e.speedScale t)
  | endOfScore => simp only [commandEffect, forgetEng, EngineState.halt, EngineState.silenceAll, map_forget hU.silence]
  | reservedLow b => exact forgetEng_forgetEng hU e
  | reservedMid b => exact forgetEng_forgetEng hU e
  | reservedHigh b => exact forgetEng_forgetEng hU e

/-- Forgetting twice is forgetting once, whatever the engine is by then. -/
theorem forget_withEng (s : State) {e e' : EngineState} (he : forgetEng g e' = forgetEng g e) :
    forget gc g ((forget gc g s).withEng e') = forget gc g (s.withEng e) := by
  simp only [forget, State.withEng, he, hU.cfg]

/-! ### The decode loop -/

theorem legal_forget (i : Instr) (c : Config) : i.legal (gc c) = i.legal c := by
  cases i <;> simp [Instr.legal, Config.numPitches, hU.maxChans, hU.periodTable]

omit hU in
theorem fetchRecord_forget (s : State) : fetchRecord (forget gc g s) = fetchRecord s := by
  have hbytes : (forget gc g s).eng.recordBytes = s.eng.recordBytes :=
    EngineState.readBytes_congr (e := s.eng) (f := forgetEng g s.eng) rfl rfl _ _
  simp only [fetchRecord, hbytes]

theorem raiseDecodeError_forget (s : State) :
    forget gc g (forget gc g s).raiseDecodeError = forget gc g s.raiseDecodeError := by
  refine forget_withEng hU s ?_
  simp only [forget, forgetEng, EngineState.failStop, EngineState.halt, EngineState.silenceAll, map_forget hU.silence]

theorem exec_blind (i : Instr) : Blind (forget gc g) (exec i) := by
  intro s
  have hl : i.legal (forget gc g s).cfg = i.legal s.cfg := legal_forget hU i s.cfg
  rcases exec_cases i s with ⟨hlegal, he⟩ | ⟨hillegal, he⟩
  · rw [he, exec_legal (hl.trans hlegal)]
    exact mapNext_congr (forget_withEng hU s (commandEffect_forget hU s.cfg i (s.eng.advanceCursor (encode i).length)))
  · rw [he, exec_illegal (hl.trans hillegal)]
    exact mapNext_congr (raiseDecodeError_forget hU s)

theorem recordStep_blind : Blind (forget gc g) recordStep := by
  intro s
  simp only [recordStep, fetchRecord_forget]
  split
  · exact exec_blind hU _ s
  · exact mapNext_congr (raiseDecodeError_forget hU s)

theorem recordEndsLoop_forget (i : Instr) (t : State) : recordEndsLoop i (forget gc g t) = recordEndsLoop i t := by
  have hl : i.legal (forget gc g t).cfg = i.legal t.cfg := legal_forget hU i t.cfg
  rw [Bool.eq_iff_iff, recordEndsLoop_iff, recordEndsLoop_iff, hl]
  rfl

theorem passEndsLoop_forget {s t t' : State} (ht : forget gc g t' = forget gc g t) :
    passEndsLoop (forget gc g s) t' = passEndsLoop s t := by
  have hends : ∀ i, recordEndsLoop i t' = recordEndsLoop i t := fun i => by
    rw [← recordEndsLoop_forget hU i t', ht, recordEndsLoop_forget hU]
  simp only [passEndsLoop, fetchRecord_forget, hends]

theorem decodeLoop_blind (n : Nat) : Blind (forget gc g) (decodeLoop n) := by
  induction n with
  | zero => exact fun _ => rfl
  | succ n ih =>
    intro s
    obtain ⟨t, ht⟩ := recordStep_next s
    obtain ⟨t', ht'⟩ := recordStep_next (forget gc g s)
    have hnext : forget gc g t' = forget gc g t := by
      have hpass := recordStep_blind hU s
      rw [ht, ht'] at hpass
      exact Host.Outcome.next.inj hpass
    have hends := passEndsLoop_forget hU (s := s) hnext
    cases he : passEndsLoop s t with
    | true =>
      rw [decodeLoop_succ_of_ends ht he, decodeLoop_succ_of_ends ht' (hends.trans he)]
      exact mapNext_congr hnext
    | false =>
      rw [decodeLoop_succ_of_not_ends ht he, decodeLoop_succ_of_not_ends ht' (hends.trans he)]
      exact ih.congr hnext

/-! ### Ticks and host operations -/

theorem tick_blind : Blind (forget gc g) tick := by
  intro s
  by_cases hk : ∀ k ∈ s.eng.chans, k.overdue = false
  · have hk' : ∀ k ∈ (forget gc g s).eng.chans, k.overdue = false := by
      intro k hmem
      obtain ⟨j, hj, rfl⟩ := List.mem_map.1 hmem
      exact (hU.overdue j).trans (hk j hj)
    have hserviced : forget gc g (serviced (forget gc g s)) = forget gc g (serviced s) := by
      refine forget_withEng hU s ?_
      simp only [forgetEng, forget, map_forget hU.service]
    have hpasses : passesAllowed (serviced (forget gc g s)) = passesAllowed (serviced s) := by
      simp only [passesAllowed, serviced, State.withEng_cfg, State.withEng_eng, forget, forgetEng, hU.maxRecordsPerTick]
    have hdelay : (forget gc g s).eng.eventDelay = s.eng.eventDelay := rfl
    rw [tick_of_not_overdue hk, tick_of_not_overdue hk', hdelay, hpasses]
    split
    · exact (decodeLoop_blind hU _).congr hserviced
    · exact mapNext_congr hserviced
  · obtain ⟨k, hmem, ho⟩ : ∃ k ∈ s.eng.chans, k.overdue = true := by simpa using hk
    have hmem' : g k ∈ (forget gc g s).eng.chans := List.mem_map_of_mem hmem
    rw [tick_of_overdue hmem ho, tick_of_overdue hmem' ((hU.overdue k).trans ho)]

theorem timerFires_blind : Blind (forget gc g) timerFires := by
  intro s
  have harmed : (forget gc g s).eng.timerArmed = s.eng.timerArmed := rfl
  simp only [timerFires, harmed]
  split
  · exact tick_blind hU s
  · exact mapNext_congr (forget_withEng hU s (forgetEng_forgetEng hU s.eng))

/-- The answer to the host is no part of what is forgotten. -/
theorem forget_answer (s : State) (r : HostResult) {e e' : EngineState} (he : forgetEng g e' = forgetEng g e) :
    forget gc g (((forget gc g s).withEng e').answer r) = forget gc g ((s.withEng e).answer r) := by
  simp only [forget, State.withEng, State.answer, he, hU.cfg]

theorem hostOp_blind (op : HostOp) : Blind (forget gc g) (hostOp op) := by
  intro s
  have hsame : ∀ r, forget gc g ((forget gc g s).answer r) = forget gc g (s.answer r) := fun r =>
    forget_answer hU s r (forgetEng_forgetEng hU s.eng)
  cases op with
  | playScore buf =>
    have hplaying : (forget gc g s).eng.isPlaying = s.eng.isPlaying := rfl
    have hbits : (forget gc g s).cfg.addrBits = s.cfg.addrBits := hU.addrBits s.cfg
    simp only [hostOp, playScore, hplaying, hbits]
    split
    · exact mapNext_congr (hsame _)
    · cases buf with
      | none => exact mapNext_congr (hsame _)
      | some bytes =>
        simp only
        split
        · refine mapNext_congr (forget_answer hU s _ ?_)
          simp only [forget, forgetEng, EngineState.startPlayback, EngineState.rewind, map_forget hU.clear]
        · rfl
  | stopScore =>
    refine mapNext_congr (forget_answer hU s _ ?_)
    simp only [forget, forgetEng, EngineState.stopPlayback, EngineState.rewind, EngineState.silenceAll,
      EngineState.isPlaying, map_forget hU.silence]
    rfl
  | setSpeed percent =>
    simp only [hostOp, setSpeed]
    split
    · refine mapNext_congr (forget_answer hU s _ ?_)
      simp only [forget, forgetEng, EngineState.writeSpeed, map_map_self hU.chan]
    · exact mapNext_congr (hsame _)
  | isPlaying => exact mapNext_congr (hsame _)
  | status => exact mapNext_congr (hsame _)
  | teardown =>
    refine mapNext_congr (forget_answer hU s _ ?_)
    simp only [forget, forgetEng, EngineState.tearDown, EngineState.rewind, EngineState.silenceAll,
      map_forget hU.silence]

theorem step_blind : Blind (forget gc g) step := by
  intro s
  rcases step_cases s with ⟨h3, hs⟩ | ⟨hp, ⟨rest, hi, hs⟩ | ⟨op, rest, hi, hs⟩⟩
  · rw [hs, step_of_illegal (s := forget gc g s) h3]
  · rw [hs, step_of_timer (s := forget gc g s) hp hi]
    exact timerFires_blind hU (s.withInputs rest)
  · rw [hs, step_of_host (s := forget gc g s) hp hi]
    exact hostOp_blind hU op (s.withInputs rest)

end UnreadRules

/-! ### The two statements -/

/-- A channel with its line forgotten. -/
def erasePin (k : Channel) : Channel := { k with pin := false }

/-- No operation on a channel reads its line but the toggle, which writes the line alone. -/
theorem unread_pins : Unread id erasePin where
  maxChans _ := rfl
  periodTable _ := rfl
  addrBits _ := rfl
  maxRecordsPerTick _ := rfl
  cfg _ := rfl
  chan _ := rfl
  overdue _ := rfl
  service k := by
    cases ha : k.active with
    | false =>
      rw [Channel.service_inactive ha, Channel.service_inactive (k := erasePin k) ha]
      rfl
    | true =>
      simp only [Channel.service, Channel.countDown, erasePin, ha, if_true]
      split <;> rfl
  startTone _ _ := rfl
  silence _ := rfl
  clear _ := rfl

/-- Settles O45: forgetting the lines is forgetting what is unread. -/
theorem pinLevelsAreNeverRead : Obligations.PinLevelsAreNeverRead := step_blind unread_pins

/-- A configuration with its tick rate and its pin map forgotten. -/
def eraseWires (c : Config) : Config := { c with tickHz := 0, pinMap := [] }

theorem unread_wiring : Unread eraseWires id :=
  ⟨fun _ => rfl, fun _ => rfl, fun _ => rfl, fun _ => rfl, fun _ => rfl, fun _ => rfl, fun _ => rfl, fun _ => rfl,
    fun _ _ => rfl, fun _ => rfl, fun _ => rfl⟩

theorem eraseWiring_eq_forget : State.eraseWiring = forget eraseWires id := by
  funext s
  simp [State.eraseWiring, forget, forgetEng, eraseWires]

/-- Settles O46: forgetting the wiring is forgetting what is unread. -/
theorem tickRateAndPinMapAreNeverRead : Obligations.TickRateAndPinMapAreNeverRead := by
  unfold Obligations.TickRateAndPinMapAreNeverRead
  rw [eraseWiring_eq_forget]
  exact step_blind unread_wiring

end Sys2Proof.Proofs
end
